-- ==== Sys2Proof/Word.lean ====
section
/-! DEFINITION. The word types of the block (spec/00_scope.md R6, spec/10_state.md R10, R12): every value is unsigned. -/

namespace Sys2Proof

/-- An 8-bit value: a general register, a timer, a byte of main memory, the immediate `nn`. -/
abbrev Byte := BitVec 8

/-- A 16-bit value: `I`, `PC`, a stack slot, `KEYS`, `FINFO`, an instruction word. -/
abbrev Word := BitVec 16

/-- A general-register number, the `x` or `y` field (R62: register numbers 0..15). -/
abbrev Reg := Fin 16

/-- The register that doubles as the one flag, VF (R15). -/
abbrev VF : Reg := 15

end Sys2Proof
end

