-- ==== Sys2Proof/Syntax.lean ====
section
/-! DEFINITION. The 35 instruction variants (spec/30_encoding.md R64), one constructor a row of spec/opcode_table.json, in its order. Register numbers and the sprite height are numbers below 16, immediates have the width of their field (R62, R63). -/

namespace Sys2Proof

inductive Instr where
  /-- `CLS`, 00E0 (R141). -/
  | cls
  /-- `RET`, 00EE (R82). -/
  | ret
  /-- `SYS nnn`, 0nnn (R81). -/
  | sys (nnn : BitVec 12)
  /-- `JP nnn`, 1nnn (R83). -/
  | jp (nnn : BitVec 12)
  /-- `CALL nnn`, 2nnn (R84). -/
  | call (nnn : BitVec 12)
  /-- `SE Vx, nn`, 3xnn (R85). -/
  | seImm (x : Reg) (nn : Byte)
  /-- `SNE Vx, nn`, 4xnn (R86). -/
  | sneImm (x : Reg) (nn : Byte)
  /-- `SE Vx, Vy`, 5xy0 (R87). -/
  | seReg (x y : Reg)
  /-- `LD Vx, nn`, 6xnn (R101). -/
  | ldImm (x : Reg) (nn : Byte)
  /-- `ADD Vx, nn`, 7xnn (R102). -/
  | addImm (x : Reg) (nn : Byte)
  /-- `LD Vx, Vy`, 8xy0 (R103). -/
  | ldReg (x y : Reg)
  /-- `OR Vx, Vy`, 8xy1 (R104). -/
  | orReg (x y : Reg)
  /-- `AND Vx, Vy`, 8xy2 (R105). -/
  | andReg (x y : Reg)
  /-- `XOR Vx, Vy`, 8xy3 (R106). -/
  | xorReg (x y : Reg)
  /-- `ADD Vx, Vy`, 8xy4 (R107). -/
  | addReg (x y : Reg)
  /-- `SUB Vx, Vy`, 8xy5 (R108). -/
  | subReg (x y : Reg)
  /-- `SHR Vx, Vy`, 8xy6 (R109). -/
  | shr (x y : Reg)
  /-- `SUBN Vx, Vy`, 8xy7 (R110). -/
  | subn (x y : Reg)
  /-- `SHL Vx, Vy`, 8xyE (R111). -/
  | shl (x y : Reg)
  /-- `SNE Vx, Vy`, 9xy0 (R88). -/
  | sneReg (x y : Reg)
  /-- `LD I, nnn`, Annn (R121). -/
  | ldI (nnn : BitVec 12)
  /-- `JP V0, nnn`, Bnnn (R91). -/
  | jpV0 (nnn : BitVec 12)
  /-- `RND Vx, nn`, Cxnn (R167). -/
  | rnd (x : Reg) (nn : Byte)
  /-- `DRW Vx, Vy, n`, Dxyn (R142); `n` counts the sprite's rows, 0..15. -/
  | drw (x y : Reg) (n : Fin 16)
  /-- `SKP Vx`, Ex9E (R161). -/
  | skp (x : Reg)
  /-- `SKNP Vx`, ExA1 (R162). -/
  | sknp (x : Reg)
  /-- `LD Vx, DT`, Fx07 (R164). -/
  | ldVxDt (x : Reg)
  /-- `LD Vx, K`, Fx0A (R163). -/
  | ldVxK (x : Reg)
  /-- `LD DT, Vx`, Fx15 (R165). -/
  | ldDt (x : Reg)
  /-- `LD ST, Vx`, Fx18 (R166). -/
  | ldSt (x : Reg)
  /-- `ADD I, Vx`, Fx1E (R122). -/
  | addI (x : Reg)
  /-- `LD F, Vx`, Fx29 (R123). -/
  | ldF (x : Reg)
  /-- `LD B, Vx`, Fx33 (R125). -/
  | ldB (x : Reg)
  /-- `LD [I], Vx`, Fx55 (R126). -/
  | ldMemVx (x : Reg)
  /-- `LD Vx, [I]`, Fx65 (R127). -/
  | ldVxMem (x : Reg)
  deriving DecidableEq, Repr

end Sys2Proof
end

