-- ==== Sys2Proof/WellFormed.lean ====
section
/-! DEFINITION. Which terms of `Instr` are instructions of the block. The field widths of spec/30_encoding.md R62 are in the types; the one check left is that of SYS (spec/40_control_flow.md R81). -/

namespace Sys2Proof

/-- The address 0x0E0 is not SYS's: that word is CLS (R64 row 1). -/
def sysIsNotCls (nnn : BitVec 12) : Bool := nnn != 0x0E0

/-- The address 0x0EE is not SYS's: that word is RET (R64 row 2). -/
def sysIsNotRet (nnn : BitVec 12) : Bool := nnn != 0x0EE

/-- Well-formed: SYS nnn stands "for every `nnn` other than 0x0E0 and 0x0EE" (R81); every other combination of operands is an instruction (R65: bits that are operands may have any value). -/
def Instr.wf : Instr → Bool
  | .cls => true
  | .ret => true
  | .sys nnn => sysIsNotCls nnn && sysIsNotRet nnn
  | .jp _ => true
  | .call _ => true
  | .seImm _ _ => true
  | .sneImm _ _ => true
  | .seReg _ _ => true
  | .ldImm _ _ => true
  | .addImm _ _ => true
  | .ldReg _ _ => true
  | .orReg _ _ => true
  | .andReg _ _ => true
  | .xorReg _ _ => true
  | .addReg _ _ => true
  | .subReg _ _ => true
  | .shr _ _ => true
  | .subn _ _ => true
  | .shl _ _ => true
  | .sneReg _ _ => true
  | .ldI _ => true
  | .jpV0 _ => true
  | .rnd _ _ => true
  | .drw _ _ _ => true
  | .skp _ => true
  | .sknp _ => true
  | .ldVxDt _ => true
  | .ldVxK _ => true
  | .ldDt _ => true
  | .ldSt _ => true
  | .addI _ => true
  | .ldF _ => true
  | .ldB _ => true
  | .ldMemVx _ => true
  | .ldVxMem _ => true

end Sys2Proof
end

