-- ==== Sys2Proof/Decode.lean ====
section
/-! DEFINITION. The decoder, total on any bytes (spec/30_encoding.md R60 to R65), and after it the encoder (R69). -/

namespace Sys2Proof

/-! ## The fields of an instruction word (R62) -/

/-- `x`, bits 11:8. -/
def fieldX (w : Word) : Reg := (w.extractLsb' 8 4).toFin

/-- `y`, bits 7:4. -/
def fieldY (w : Word) : Reg := (w.extractLsb' 4 4).toFin

/-- `n`, bits 3:0. -/
def fieldN (w : Word) : Fin 16 := (w.extractLsb' 0 4).toFin

/-- `nn`, bits 7:0. -/
def fieldNN (w : Word) : Byte := w.extractLsb' 0 8

/-- `nnn`, bits 11:0. -/
def fieldNNN (w : Word) : BitVec 12 := w.extractLsb' 0 12

/-! ## The opcode map (R64) -/

/-- A row of the opcode map: a word is the row's when `word & mask = match`. -/
structure OpRow where
  mask : Word
  pat : Word
  build : Word → Instr

/-- Rows 1 to 10 of R64. -/
def opRowsA : List OpRow :=
  [ ⟨0xFFFF, 0x00E0, fun _ => .cls⟩,
    ⟨0xFFFF, 0x00EE, fun _ => .ret⟩,
    ⟨0xF000, 0x0000, fun w => .sys (fieldNNN w)⟩,
    ⟨0xF000, 0x1000, fun w => .jp (fieldNNN w)⟩,
    ⟨0xF000, 0x2000, fun w => .call (fieldNNN w)⟩,
    ⟨0xF000, 0x3000, fun w => .seImm (fieldX w) (fieldNN w)⟩,
    ⟨0xF000, 0x4000, fun w => .sneImm (fieldX w) (fieldNN w)⟩,
    ⟨0xF00F, 0x5000, fun w => .seReg (fieldX w) (fieldY w)⟩,
    ⟨0xF000, 0x6000, fun w => .ldImm (fieldX w) (fieldNN w)⟩,
    ⟨0xF000, 0x7000, fun w => .addImm (fieldX w) (fieldNN w)⟩ ]

/-- Rows 11 to 19 of R64, the 8xy group. -/
def opRowsB : List OpRow :=
  [ ⟨0xF00F, 0x8000, fun w => .ldReg (fieldX w) (fieldY w)⟩,
    ⟨0xF00F, 0x8001, fun w => .orReg (fieldX w) (fieldY w)⟩,
    ⟨0xF00F, 0x8002, fun w => .andReg (fieldX w) (fieldY w)⟩,
    ⟨0xF00F, 0x8003, fun w => .xorReg (fieldX w) (fieldY w)⟩,
    ⟨0xF00F, 0x8004, fun w => .addReg (fieldX w) (fieldY w)⟩,
    ⟨0xF00F, 0x8005, fun w => .subReg (fieldX w) (fieldY w)⟩,
    ⟨0xF00F, 0x8006, fun w => .shr (fieldX w) (fieldY w)⟩,
    ⟨0xF00F, 0x8007, fun w => .subn (fieldX w) (fieldY w)⟩,
    ⟨0xF00F, 0x800E, fun w => .shl (fieldX w) (fieldY w)⟩ ]

/-- Rows 20 to 26 of R64. -/
def opRowsC : List OpRow :=
  [ ⟨0xF00F, 0x9000, fun w => .sneReg (fieldX w) (fieldY w)⟩,
    ⟨0xF000, 0xA000, fun w => .ldI (fieldNNN w)⟩,
    ⟨0xF000, 0xB000, fun w => .jpV0 (fieldNNN w)⟩,
    ⟨0xF000, 0xC000, fun w => .rnd (fieldX w) (fieldNN w)⟩,
    ⟨0xF000, 0xD000, fun w => .drw (fieldX w) (fieldY w) (fieldN w)⟩,
    ⟨0xF0FF, 0xE09E, fun w => .skp (fieldX w)⟩,
    ⟨0xF0FF, 0xE0A1, fun w => .sknp (fieldX w)⟩ ]

/-- Rows 27 to 35 of R64, the Fx group. -/
def opRowsD : List OpRow :=
  [ ⟨0xF0FF, 0xF007, fun w => .ldVxDt (fieldX w)⟩,
    ⟨0xF0FF, 0xF00A, fun w => .ldVxK (fieldX w)⟩,
    ⟨0xF0FF, 0xF015, fun w => .ldDt (fieldX w)⟩,
    ⟨0xF0FF, 0xF018, fun w => .ldSt (fieldX w)⟩,
    ⟨0xF0FF, 0xF01E, fun w => .addI (fieldX w)⟩,
    ⟨0xF0FF, 0xF029, fun w => .ldF (fieldX w)⟩,
    ⟨0xF0FF, 0xF033, fun w => .ldB (fieldX w)⟩,
    ⟨0xF0FF, 0xF055, fun w => .ldMemVx (fieldX w)⟩,
    ⟨0xF0FF, 0xF065, fun w => .ldVxMem (fieldX w)⟩ ]

/-- The 35 rows in the order R64 gives: "the order matters only for rows 1 to 3". -/
def opcodeTable : List OpRow := opRowsA ++ opRowsB ++ opRowsC ++ opRowsD

/-- Why bytes are no instruction. -/
inductive DecodeError where
  /-- The word matches no row of R64 (R65). -/
  | unknownOpcode (w : Word)
  /-- Fewer than two bytes are given (R60: every instruction is two bytes). -/
  | truncated
  deriving DecidableEq, Repr

/-- `decode(word)`: the first row whose `(word & mask) = match` (R64); none: the word is illegal (R65). -/
def decodeWord (w : Word) : Except DecodeError Instr :=
  match opcodeTable.find? (fun r => (w &&& r.mask) == r.pat) with
  | some r => .ok (r.build w)
  | none => .error (.unknownOpcode w)

/-- The instruction word of two bytes, the one at the lower address in bits 15:8 (R43). -/
def joinBytes (hi lo : Byte) : Word := hi ++ lo

/-- Decoding of a byte sequence: one instruction and the bytes after it. -/
def decode : List Byte → Except DecodeError (Instr × List Byte)
  | hi :: lo :: rest =>
    match decodeWord (joinBytes hi lo) with
    | .ok i => .ok (i, rest)
    | .error e => .error e
  | [_] => .error .truncated
  | [] => .error .truncated

/-! ## The encoder (R69: the inverse of R62) -/

/-- Format Z and A: the high nibble and `nnn`. -/
def formA (op : BitVec 4) (nnn : BitVec 12) : Word := op ++ nnn

/-- Formats XI and X: the high nibble, `x` in bits 11:8, `nn` in bits 7:0. -/
def formXI (op : BitVec 4) (x : Reg) (nn : Byte) : Word := op ++ (BitVec.ofFin (w := 4) x) ++ nn

/-- Formats XY and XYN: the high nibble, `x`, `y` in bits 7:4, `n` in bits 3:0. -/
def formXYN (op : BitVec 4) (x y : Reg) (n : BitVec 4) : Word :=
  op ++ (BitVec.ofFin (w := 4) x) ++ (BitVec.ofFin (w := 4) y) ++ n

/-- The word of an instruction, from the patterns of R64. -/
def encodeWord : Instr → Word
  | .cls => formA 0x0 0x0E0
  | .ret => formA 0x0 0x0EE
  | .sys nnn => formA 0x0 nnn
  | .jp nnn => formA 0x1 nnn
  | .call nnn => formA 0x2 nnn
  | .seImm x nn => formXI 0x3 x nn
  | .sneImm x nn => formXI 0x4 x nn
  | .seReg x y => formXYN 0x5 x y 0x0
  | .ldImm x nn => formXI 0x6 x nn
  | .addImm x nn => formXI 0x7 x nn
  | .ldReg x y => formXYN 0x8 x y 0x0
  | .orReg x y => formXYN 0x8 x y 0x1
  | .andReg x y => formXYN 0x8 x y 0x2
  | .xorReg x y => formXYN 0x8 x y 0x3
  | .addReg x y => formXYN 0x8 x y 0x4
  | .subReg x y => formXYN 0x8 x y 0x5
  | .shr x y => formXYN 0x8 x y 0x6
  | .subn x y => formXYN 0x8 x y 0x7
  | .shl x y => formXYN 0x8 x y 0xE
  | .sneReg x y => formXYN 0x9 x y 0x0
  | .ldI nnn => formA 0xA nnn
  | .jpV0 nnn => formA 0xB nnn
  | .rnd x nn => formXI 0xC x nn
  | .drw x y n => formXYN 0xD x y (BitVec.ofFin (w := 4) n)
  | .skp x => formXI 0xE x 0x9E
  | .sknp x => formXI 0xE x 0xA1
  | .ldVxDt x => formXI 0xF x 0x07
  | .ldVxK x => formXI 0xF x 0x0A
  | .ldDt x => formXI 0xF x 0x15
  | .ldSt x => formXI 0xF x 0x18
  | .addI x => formXI 0xF x 0x1E
  | .ldF x => formXI 0xF x 0x29
  | .ldB x => formXI 0xF x 0x33
  | .ldMemVx x => formXI 0xF x 0x55
  | .ldVxMem x => formXI 0xF x 0x65

/-- The high byte of a word, stored at the lower address (R69). -/
def highByte (w : Word) : Byte := w.extractLsb' 8 8

/-- The low byte of a word. -/
def lowByte (w : Word) : Byte := w.extractLsb' 0 8

/-- A word as the two bytes memory holds, bits 15:8 first (R43, R69). -/
def wordBytes (w : Word) : List Byte := [highByte w, lowByte w]

/-- The two bytes of an instruction. -/
def encode (i : Instr) : List Byte := wordBytes (encodeWord i)

/-! ## The table's numbering of an instruction's bits -/

/-- The instruction word of `nbits` bits numbered as spec/opcode_table.json numbers them; bits at `nbits` and above are 0. Every row has 16 bits, one word. -/
def tableWord (nbits w : Nat) : Word := BitVec.ofNat 16 (w % 2 ^ nbits)

/-- What the decoder reads from the bytes of that word. -/
def decodeTableWord (nbits w : Nat) : Option Instr :=
  match decode (wordBytes (tableWord nbits w)) with
  | .ok (i, _) => some i
  | .error _ => none

end Sys2Proof
end

