-- ==== Sys2Proof/Config.lean ====
section
/-! DEFINITION. What an implementation fixes (spec/00_scope.md R5) and the one free value of the block, the random input of a STEP (spec/10_state.md R32). The values this hardware takes for the three parameters stand in Sys2Proof/Machine/Build.lean. -/

namespace Sys2Proof

/-- `MEM_SIZE` (R5). -/
abbrev memSize : Nat := 4096

/-- `PROG_BASE` and `PC_RESET` (R5). -/
abbrev progBase : Nat := 0x200

/-- `IMAGE_MAX` (R5). -/
abbrev imageMax : Nat := 3584

/-- The three parameters fixed when the block is built (R5, R23): they are no state. -/
structure Config where
  /-- `SHIFT_SRC_VY`: SHR and SHL shift `V[y]` (true) or `V[x]` in place (false). -/
  shiftSrcVy : Bool
  /-- `MEM_INC_I`: LD [I],Vx and LD Vx,[I] advance `I` by `x + 1` (true) or leave it (false). -/
  memIncI : Bool
  /-- `FONT_BASE`: the address of glyph 0. -/
  fontBase : Nat
  deriving DecidableEq, Repr

/-- The legal range of `FONT_BASE`, 0x000..0x1B0 (R5). -/
def Config.wf (c : Config) : Bool := decide (c.fontBase ≤ 0x1B0)

/-- FREE VALUE (log 3): the 8-bit input `rnd` of a STEP, "a free value drawn anew at each STEP" (R32). It has no body, so no proof can see a value of it; `State.draws` counts the values taken. -/
opaque Config.rnd : Nat → Byte

end Sys2Proof
end

