-- ==== Sys2Proof/Machine/State.lean ====
section
/-! DEFINITION. The state of the block as plain data (spec/10_state.md section 1) and the machine right after reset (spec/70_reset_and_hazards.md R211 to R213). -/

namespace Sys2Proof.Machine

/-- The content of `FAULT` (R180). A program cannot read it; the host reads its code (`FaultCode.code`). -/
inductive FaultCode where
  /-- 0: no fault, the block runs. -/
  | none
  /-- 1: a fetch, DRW, LD B, LD [I],Vx or LD Vx,[I] would use an address of 4096 or more (R181). -/
  | addressOutOfRange
  /-- 2: CALL with sixteen return addresses on the stack (R182). -/
  | stackOverflow
  /-- 3: RET with none (R183). -/
  | stackUnderflow
  /-- 4: an illegal word or SYS (R184). -/
  | unknownOpcode
  /-- 5: RESET with an image of more than 3584 bytes (R185). -/
  | imageTooLarge
  deriving DecidableEq, Repr

/-- Why a step could stop the MODEL. There is no constructor: every fault of the block is an effect the spec describes (R188, the latch `FAULT`) and so a next state, and the spec gives every instruction an effect. Safe: nothing stops (log 2). -/
inductive Fault where
  deriving DecidableEq, Repr

/-- Why an instruction could be without a meaning. -/
inductive Refusal where
  /-- Raised only by an arm of `exec` for an instruction that has no meaning yet; no arm does. Safe. -/
  | notModelled (mnemonic : String)
  deriving DecidableEq, Repr

/-- Main memory (R25) as the bytes that differ from the reset content, in rising order of address (log 6; `Memory.wf` in Sys2Proof/Machine/Memory.lean). -/
abbrev Memory := List Host.Cell

/-- The framebuffer (R26): 32 rows from the top, each of 64 one-bit pixels; bit `x` of row `y` is `FB[y][x]` (log 9). -/
abbrev Framebuffer := Vector (BitVec 64) 32

structure State where
  /-- `V[0]`..`V[15]`, VF is `V[15]` (R10, R15). -/
  v : Vector Byte 16
  /-- `I`, the index register (R17). -/
  i : Word
  /-- `PC` (R12). -/
  pc : Word
  /-- `STACK[0]`..`STACK[15]` (R18). -/
  stack : Vector Word 16
  /-- `SP`, the count 0..16 of the slots in use (R18). -/
  sp : Fin 17
  /-- `DT`, the delay timer (R19). -/
  dt : Byte
  /-- `ST`, the sound timer (R20). -/
  st : Byte
  /-- `KEYS`, bit `k` is 1 when key `k` is down (R21). -/
  keys : Word
  /-- `FB` (R26). -/
  fb : Framebuffer
  /-- `MEM` (R25). -/
  mem : Memory
  /-- `FAULT` (R22, R180). -/
  fault : FaultCode
  /-- `FINFO` (R22, R180). -/
  finfo : Word
  /-- THE MODEL'S OWN: the output `redraw` of the most recent STEP (R33; log 4). -/
  redraw : Bool
  /-- THE MODEL'S OWN: how many values of the free input `rnd` have been taken (R32; log 3). -/
  draws : Nat
  deriving DecidableEq, Repr

/-- The outcome of an instruction or a step. -/
abbrev Result := Host.Outcome State Fault Refusal

/-- Right after RESET with an empty image (R211, R213, R215): memory lists nothing, so every byte reads as its reset content (R212). The stack slots are unspecified there; the zeros are the model's (log 5). -/
def State.reset : State where
  v := Vector.replicate 16 0
  i := 0
  pc := 0x200
  stack := Vector.replicate 16 0
  sp := 0
  dt := 0
  st := 0
  keys := 0
  fb := Vector.replicate 32 0
  mem := []
  fault := .none
  finfo := 0
  redraw := false
  draws := 0

end Sys2Proof.Machine
end

