-- ==== Sys2Proof/Machine/Framebuffer.lean ====
section
/-! DEFINITION. The framebuffer's operations: clear and the XOR blit with collision detection (spec/43_display.md R140 to R147). -/

namespace Sys2Proof.Machine

/-- `FB[y][x]` (R26). -/
def Framebuffer.get (fb : Framebuffer) (x : Fin 64) (y : Fin 32) : Bool := fb[y].getLsbD x

/-- `FB[y][x] <- FB[y][x] ^ 1` (R142). -/
def Framebuffer.toggle (fb : Framebuffer) (x : Fin 64) (y : Fin 32) : Framebuffer :=
  fb.set y (fb[y] ^^^ BitVec.twoPow 64 x)

/-- All 2048 pixels clear (R141, R213). -/
def Framebuffer.clear : Framebuffer := Vector.replicate 32 0

/-- One sprite bit, column `c` of a row (R142): a 1 toggles its pixel and collides with a set one; a 0 does nothing (R146). Bit `7 - c` is at column `(x0 + c) mod 64` of row `y` (R144, R147). -/
def blitPixel (x0 y : Nat) (b : Byte) (acc : Framebuffer × Bool) (c : Nat) : Framebuffer × Bool :=
  if b.getLsbD (7 - c) then
    (acc.1.toggle (Fin.ofNat 64 (x0 + c)) (Fin.ofNat 32 y),
     acc.2 || acc.1.get (Fin.ofNat 64 (x0 + c)) (Fin.ofNat 32 y))
  else acc

/-- One sprite byte, the eight columns from the left (R147). -/
def blitRow (x0 y : Nat) (b : Byte) (acc : Framebuffer × Bool) : Framebuffer × Bool :=
  (List.range 8).foldl (blitPixel x0 y b) acc

/-- The rows of a sprite from the top, the first on row `y` (modulo 32, R145). -/
def blitRows (x0 : Nat) : Nat → List Byte → Framebuffer × Bool → Framebuffer × Bool
  | _, [], acc => acc
  | y, b :: bs, acc => blitRows x0 (y + 1) bs (blitRow x0 y b acc)

/-- The XOR blit of a sprite at `(x0, y0)`: the new framebuffer, and whether any pixel went from set to clear (R146). -/
def Framebuffer.blit (fb : Framebuffer) (x0 y0 : Nat) (sprite : List Byte) : Framebuffer × Bool :=
  blitRows x0 y0 sprite (fb, false)

end Sys2Proof.Machine
end

