-- ==== Sys2Proof/Machine/Build.lean ====
section
/-! DEFINITION. The values this hardware takes for its three parameters (spec/00_scope.md R5) and the font (spec/42_index_memory.md R124). -/

namespace Sys2Proof.Machine

/-- The parameters of the hardware: the spec's choices (R5, decisions D4, D5, D11; log 7). -/
def build : Config where
  shiftSrcVy := true
  memIncI := true
  fontBase := 0x000

/-- The glyphs of digits 0 to 7, five bytes each (R124). -/
def glyphsLow : List Byte :=
  [ 0xF0, 0x90, 0x90, 0x90, 0xF0,  0x20, 0x60, 0x20, 0x20, 0x70,
    0xF0, 0x10, 0xF0, 0x80, 0xF0,  0xF0, 0x10, 0xF0, 0x10, 0xF0,
    0x90, 0x90, 0xF0, 0x10, 0x10,  0xF0, 0x80, 0xF0, 0x10, 0xF0,
    0xF0, 0x80, 0xF0, 0x90, 0xF0,  0xF0, 0x10, 0x20, 0x40, 0x40 ]

/-- The glyphs of digits 8 to F (R124). -/
def glyphsHigh : List Byte :=
  [ 0xF0, 0x90, 0xF0, 0x90, 0xF0,  0xF0, 0x90, 0xF0, 0x10, 0xF0,
    0xF0, 0x90, 0xF0, 0x90, 0x90,  0xE0, 0x90, 0xE0, 0x90, 0xE0,
    0xF0, 0x80, 0x80, 0x80, 0xF0,  0xE0, 0x90, 0x90, 0x90, 0xE0,
    0xF0, 0x80, 0xF0, 0x80, 0xF0,  0xF0, 0x80, 0xF0, 0x80, 0x80 ]

/-- The 80 font bytes (R124): glyph `d` is bytes `5*d` to `5*d + 4`. -/
def fontBytes : List Byte := glyphsLow ++ glyphsHigh

/-- Where glyph `d` is: `FONT_BASE + 5*d` (R123, R124). -/
def glyphAddress (c : Config) (d : Nat) : Nat := c.fontBase + 5 * d

end Sys2Proof.Machine
end

