-- ==== Sys2Proof/Machine/Memory.lean ====
section
/-! DEFINITION. Main memory (spec/20_memory.md): 4096 bytes, one canonical form. -/

namespace Sys2Proof.Machine

/-- The content RESET gives a byte before the image is copied: the font, elsewhere 0 (R212 steps 1 and 2), for any `FONT_BASE`. -/
def resetByte (c : Config) (a : Nat) : Byte :=
  if c.fontBase ≤ a then fontBytes.getD (a - c.fontBase) 0 else 0

/-- What an address that is not listed reads as (log 6). -/
def Memory.background (a : Nat) : Byte := resetByte build a

/-- The byte at address `a`; the range check of R41 stands in the operations that call it. -/
def Memory.read : Memory → Nat → Byte
  | [], a => Memory.background a
  | (k, b) :: m, a => if a = k then b else Memory.read m a

/-- Lists `b` at `a`, in its place. -/
def Memory.insert : Memory → Nat → Byte → Memory
  | [], a, b => [(a, b)]
  | (k, c) :: m, a, b =>
    if a < k then (a, b) :: (k, c) :: m
    else if a = k then (a, b) :: m
    else (k, c) :: Memory.insert m a b

/-- Lists nothing at `a`. -/
def Memory.erase (m : Memory) (a : Nat) : Memory := m.filter (fun cell => cell.1 != a)

/-- Stores `b` at `a` and keeps the canonical form: a byte equal to the background is not listed. -/
def Memory.write (m : Memory) (a : Nat) (b : Byte) : Memory :=
  if b = Memory.background a then m.erase a else m.insert a b

/-- Byte stores at rising addresses from `a`, in order (R44). -/
def Memory.writeBytes : Memory → Nat → List Byte → Memory
  | m, _, [] => m
  | m, a, b :: bs => Memory.writeBytes (m.write a b) (a + 1) bs

/-- The `n` bytes at rising addresses from `a` (R44). -/
def Memory.readBytes (m : Memory) (a n : Nat) : List Byte :=
  (List.range n).map (fun k => m.read (a + k))

/-- Every listed address is above `lo`'s predecessor, rises, is an address of memory, and holds another byte than the background. -/
def Memory.wfFrom : Nat → Memory → Bool
  | _, [] => true
  | lo, (k, b) :: m =>
    decide (lo ≤ k) && decide (k < memSize) && decide (b ≠ Memory.background k) && Memory.wfFrom (k + 1) m

/-- The canonical form (log 6). -/
def Memory.wf (m : Memory) : Bool := Memory.wfFrom 0 m

/-- The lowest address of `base`..`base + len - 1` that is 4096 or more, if any: `max(base, 4096)` (R41, R120). The sum is over the natural numbers, without a wrap at 16 bits. -/
def firstOutOfRange (base len : Nat) : Option Nat :=
  if len ≠ 0 ∧ memSize < base + len then some (max base memSize) else none

end Sys2Proof.Machine
end

