-- ==== Sys2Proof/Machine/Ops.lean ====
section
/-! DEFINITION. The named operations through which every rule touches the state (spec/00_scope.md R7), with taking a fault (spec/60_exceptions.md R188) and the fetch (spec/20_memory.md R43). There is no return from a fault: only RESET leaves the halted state (R189; Sys2Proof/Machine/HostOps.lean). -/

namespace Sys2Proof.Machine

/-! ## Registers -/

/-- `V[x]`. -/
def State.readV (s : State) (x : Reg) : Byte := s.v[x]

/-- `V[x] <- b`. -/
def State.setV (s : State) (x : Reg) (b : Byte) : State := { s with v := s.v.set x b }

/-- `I <- w`. -/
def State.setI (s : State) (w : Word) : State := { s with i := w }

/-- `DT <- b`. -/
def State.setDt (s : State) (b : Byte) : State := { s with dt := b }

/-- `ST <- b`. -/
def State.setSt (s : State) (b : Byte) : State := { s with st := b }

/-- `V[0]`..`V[x]`, ascending (R126). -/
def State.regsUpTo (s : State) (x : Reg) : List Byte := s.v.toList.take (x.val + 1)

/-- `V[k] <- MemRead(base + k, 1)` for `k = 0 .. x` (R127); the order of the loads cannot be observed. -/
def State.loadRegs (s : State) (base : Nat) (x : Reg) : State :=
  { s with v := Vector.ofFn fun k : Fin 16 => if k ≤ x then s.mem.read (base + k.val) else s.v[k] }

/-! ## The program counter (R13) -/

/-- `PC <- target`. -/
def State.jump (s : State) (target : Word) : State := { s with pc := target }

/-- `PC <- PC + 2`, modulo 65536 (R7). -/
def State.advance (s : State) : State := { s with pc := s.pc + 2 }

/-- A skip: `PC <- PC + 4` when the condition holds, else `PC <- PC + 2` (R80). -/
def State.skipIf (s : State) (c : Bool) : State := { s with pc := if c then s.pc + 4 else s.pc + 2 }

/-! ## Taking a fault -/

/-- The code the host reads from `FAULT` (R180). -/
def FaultCode.code : FaultCode → BitVec 3
  | .none => 0
  | .addressOutOfRange => 1
  | .stackOverflow => 2
  | .stackUnderflow => 3
  | .unknownOpcode => 4
  | .imageTooLarge => 5

/-- `raise F(info)` (R188): applied to the state at the start of the instruction, so that every write of the instruction is discarded; `FAULT` and `FINFO` are set, `PC` stays at the instruction, and `redraw` is 0 (R33, R61). -/
def State.raise (s : State) (f : FaultCode) (info : Word) : State :=
  { s with fault := f, finfo := info, redraw := false }

/-- The check of a memory instruction before its first write (R120, R188): `len` bytes from `I`; the fault reports the lowest address out of range. -/
def State.guardRange (s : State) (len : Nat) (done : State) : State :=
  match firstOutOfRange s.i.toNat len with
  | some a => s.raise .addressOutOfRange (BitVec.ofNat 16 a)
  | none => done

/-! ## The call stack (R18) -/

/-- Push of a return address, then the jump of CALL; StackOverflow with the `PC` of the CALL (R84, R180, R182). -/
def State.pushAndJump (s : State) (ret target : Word) : State :=
  if h : s.sp.val < 16 then
    { s with stack := s.stack.set s.sp.val ret, sp := ⟨s.sp.val + 1, by omega⟩, pc := target }
  else s.raise .stackOverflow s.pc

/-- Pop into `PC`; StackUnderflow with the `PC` of the RET (R82, R180, R183). -/
def State.popPc (s : State) : State :=
  if h : s.sp.val = 0 then s.raise .stackUnderflow s.pc
  else { s with sp := ⟨s.sp.val - 1, by omega⟩, pc := s.stack[s.sp.val - 1] }

/-! ## Memory and display -/

/-- Byte stores at rising addresses from `a` (R44). -/
def State.store (s : State) (a : Nat) (bs : List Byte) : State := { s with mem := s.mem.writeBytes a bs }

/-- `FB <- fb` with `redraw <- 1` (R141, R142, R150). -/
def State.show (s : State) (fb : Framebuffer) : State := { s with fb := fb, redraw := true }

/-- `sound_active = (ST != 0)` (R20, R36). -/
def State.soundActive (s : State) : Bool := s.st != 0

/-! ## Fetch -/

/-- The start of a STEP: `redraw <- 0` (R61). -/
def State.beginStep (s : State) : State := { s with redraw := false }

/-- `MemRead(PC, 2)` (R43): the word, or the address the AddressOutOfRange fault reports. -/
def State.fetch (s : State) : Except Nat Word :=
  match firstOutOfRange s.pc.toNat 2 with
  | some a => .error a
  | none => .ok (joinBytes (s.mem.read s.pc.toNat) (s.mem.read (s.pc.toNat + 1)))

end Sys2Proof.Machine
end

