-- ==== Sys2Proof/Machine/Operands.lean ====
section
/-! DEFINITION. How an instruction forms its operands from its fields and the registers. -/

namespace Sys2Proof.Machine

/-- `zext_16(nnn)` (R63). -/
def addressOperand (nnn : BitVec 12) : Word := nnn.setWidth 16

/-- The target of JP V0: `nnn + V[0]`, not reduced to 12 bits (R91). -/
def offsetTarget (s : State) (nnn : BitVec 12) : Word := addressOperand nnn + (s.readV 0).setWidth 16

/-- The source of SHR and SHL: `V[y] if SHIFT_SRC_VY else V[x]` (R109, R111). -/
def shiftSource (c : Config) (s : State) (x y : Reg) : Byte :=
  if c.shiftSrcVy then s.readV y else s.readV x

/-- `V[x][3:0]`: a key number or a digit (R123, R160). -/
def lowNibble (b : Byte) : Nat := b.toNat % 16

/-- `KEYS[k]` (R21). -/
def keyDown (s : State) (k : Nat) : Bool := s.keys.getLsbD k

/-- The least `i` in 0..15 with `KEYS[i] = 1` (R163). -/
def lowestKey (keys : Word) : Option Nat := (List.range 16).find? (fun k => keys.getLsbD k)

/-- The three decimal digits of a byte, hundreds first (R125). -/
def decimalDigits (b : Byte) : List Byte :=
  [BitVec.ofNat 8 (b.toNat / 100), BitVec.ofNat 8 (b.toNat / 10 % 10), BitVec.ofNat 8 (b.toNat % 10)]

/-- `I` after LD [I],Vx and LD Vx,[I]: `I + x + 1` when `MEM_INC_I`, else unchanged (R126, R127). -/
def indexAfter (c : Config) (s : State) (x : Reg) : Word :=
  if c.memIncI then s.i + BitVec.ofNat 16 (x.val + 1) else s.i

end Sys2Proof.Machine
end

