-- ==== Sys2Proof/Machine/ControlFlow.lean ====
section
/-! DEFINITION. Control transfer (spec/40_control_flow.md): each rule writes `PC` exactly once (R80). -/

namespace Sys2Proof.Machine

/-- `JP nnn` (R83). -/
def execJp (nnn : BitVec 12) (s : State) : Result :=
  .next (s.jump (addressOperand nnn))

/-- `JP V0, nnn` (R91): a target of 4096 or more faults at the next fetch, not here. -/
def execJpV0 (nnn : BitVec 12) (s : State) : Result :=
  .next (s.jump (offsetTarget s nnn))

/-- `CALL nnn` (R84): pushes `PC + 2`. -/
def execCall (nnn : BitVec 12) (s : State) : Result :=
  .next (s.pushAndJump (s.pc + 2) (addressOperand nnn))

/-- `RET` (R82): the popped value is used as it is. -/
def execRet (s : State) : Result :=
  .next s.popPc

/-- `SE Vx, nn` (R85). -/
def execSeImm (x : Reg) (nn : Byte) (s : State) : Result :=
  .next (s.skipIf (s.readV x == nn))

/-- `SNE Vx, nn` (R86). -/
def execSneImm (x : Reg) (nn : Byte) (s : State) : Result :=
  .next (s.skipIf (s.readV x != nn))

/-- `SE Vx, Vy` (R87). -/
def execSeReg (x y : Reg) (s : State) : Result :=
  .next (s.skipIf (s.readV x == s.readV y))

/-- `SNE Vx, Vy` (R88). -/
def execSneReg (x y : Reg) (s : State) : Result :=
  .next (s.skipIf (s.readV x != s.readV y))

/-- `SYS nnn` (R81): raises UnknownOpcode(word), the word being 0nnn. -/
def execSys (nnn : BitVec 12) (s : State) : Result :=
  .next (s.raise .unknownOpcode (encodeWord (.sys nnn)))

end Sys2Proof.Machine
end

