-- ==== Sys2Proof/Machine/Flags.lean ====
section
/-! DEFINITION. The flag VF: every computation the spec gives it (spec/10_state.md R15, R16) and the order of its write (spec/41_register_alu.md R112). The collision flag of DRW is computed by `Framebuffer.blit`. -/

namespace Sys2Proof.Machine

/-- "A flag write stores the 8-bit value 0x00 or 0x01" (R15). -/
def flagByte (b : Bool) : Byte := if b then 0x01 else 0x00

/-- ADD Vx,Vy: `a + b > 255` (R107). -/
def carryOut (a b : Byte) : Bool := decide (255 < a.toNat + b.toNat)

/-- SUB and SUBN, `a - b`: no borrow, `a >= b` (R108, R110). -/
def noBorrow (a b : Byte) : Bool := decide (b.toNat ≤ a.toNat)

/-- SHR: bit 0 of the source (R109). -/
def shiftedOutRight (b : Byte) : Bool := b.getLsbD 0

/-- SHL: bit 7 of the source (R111). -/
def shiftedOutLeft (b : Byte) : Bool := b.getLsbD 7

/-- `V[15] <- 1 or 0`. -/
def State.setFlag (s : State) (b : Bool) : State := s.setV VF (flagByte b)

/-- The result is written to `V[x]`, then the flag to `V[15]`, so the flag stays when `x = 15` (R112). -/
def State.setResultAndFlag (s : State) (x : Reg) (result : Byte) (flag : Bool) : State :=
  (s.setV x result).setFlag flag

end Sys2Proof.Machine
end

