-- ==== Sys2Proof/Machine/Display.lean ====
section
/-! DEFINITION. The display instructions (spec/43_display.md). -/

namespace Sys2Proof.Machine

/-- `CLS` (R141): every pixel clear, `redraw <- 1`, VF not written. -/
def execCls (s : State) : Result :=
  .next (s.show Framebuffer.clear).advance

/-- The blit of DRW: the sprite of `n` bytes at `I`, origin `V[x] mod 64`, `V[y] mod 32` (R142, R143). -/
def drwBlit (x y : Reg) (n : Fin 16) (s : State) : Framebuffer × Bool :=
  s.fb.blit ((s.readV x).toNat % 64) ((s.readV y).toNat % 32) (s.mem.readBytes s.i.toNat n.val)

/-- `DRW Vx, Vy, n` (R142, R149): the range check, the toggles, then `V[15]`, `redraw` and `PC`. With `n = 0` the check passes whatever `I` holds (R148). -/
def execDrw (x y : Reg) (n : Fin 16) (s : State) : Result :=
  .next (s.guardRange n.val (((s.show (drwBlit x y n s).1).setFlag (drwBlit x y n s).2).advance))

end Sys2Proof.Machine
end

