-- ==== Sys2Proof/Machine/IndexMemory.lean ====
section
/-! DEFINITION. The index register and the memory instructions (spec/42_index_memory.md). -/

namespace Sys2Proof.Machine

/-- `LD I, nnn` (R121). -/
def execLdI (nnn : BitVec 12) (s : State) : Result :=
  .next (s.setI (addressOperand nnn)).advance

/-- `ADD I, Vx` (R122): modulo 65536, VF not written, no fault. -/
def execAddI (x : Reg) (s : State) : Result :=
  .next (s.setI (s.i + (s.readV x).setWidth 16)).advance

/-- `LD F, Vx` (R123) for any `FONT_BASE`: the address of the glyph of `V[x][3:0]`. -/
def execLdFWith (c : Config) (x : Reg) (s : State) : Result :=
  .next (s.setI (BitVec.ofNat 16 (glyphAddress c (lowNibble (s.readV x))))).advance

/-- `LD F, Vx` of this hardware. -/
def execLdF (x : Reg) (s : State) : Result := execLdFWith build x s

/-- `LD B, Vx` (R125): three digits at `I`, `I+1`, `I+2`; `I` is not changed. -/
def execLdB (x : Reg) (s : State) : Result :=
  .next (s.guardRange 3 (s.store s.i.toNat (decimalDigits (s.readV x))).advance)

/-- `LD [I], Vx` (R126) for either value of `MEM_INC_I`. -/
def execLdMemVxWith (c : Config) (x : Reg) (s : State) : Result :=
  .next (s.guardRange (x.val + 1) ((s.store s.i.toNat (s.regsUpTo x)).setI (indexAfter c s x)).advance)

/-- `LD [I], Vx` of this hardware. -/
def execLdMemVx (x : Reg) (s : State) : Result := execLdMemVxWith build x s

/-- `LD Vx, [I]` (R127) for either value of `MEM_INC_I`. -/
def execLdVxMemWith (c : Config) (x : Reg) (s : State) : Result :=
  .next (s.guardRange (x.val + 1) ((s.loadRegs s.i.toNat x).setI (indexAfter c s x)).advance)

/-- `LD Vx, [I]` of this hardware. -/
def execLdVxMem (x : Reg) (s : State) : Result := execLdVxMemWith build x s

end Sys2Proof.Machine
end

