-- ==== Sys2Proof/Machine/KeysTimersRandom.lean ====
section
/-! DEFINITION. Keys, timers and random (spec/44_keys_timers_random.md). -/

namespace Sys2Proof.Machine

/-- `LD Vx, DT` (R164). -/
def execLdVxDt (x : Reg) (s : State) : Result :=
  .next (s.setV x s.dt).advance

/-- `LD DT, Vx` (R165). -/
def execLdDt (x : Reg) (s : State) : Result :=
  .next (s.setDt (s.readV x)).advance

/-- `LD ST, Vx` (R166). -/
def execLdSt (x : Reg) (s : State) : Result :=
  .next (s.setSt (s.readV x)).advance

/-- `SKP Vx` (R160, R161). -/
def execSkp (x : Reg) (s : State) : Result :=
  .next (s.skipIf (keyDown s (lowNibble (s.readV x))))

/-- `SKNP Vx` (R160, R162). -/
def execSknp (x : Reg) (s : State) : Result :=
  .next (s.skipIf (!keyDown s (lowNibble (s.readV x))))

/-- `LD Vx, K` (R163): while no key is down nothing changes, `PC` included, and the same instruction is fetched again. -/
def execLdVxK (x : Reg) (s : State) : Result :=
  match lowestKey s.keys with
  | none => .next s
  | some k => .next (s.setV x (BitVec.ofNat 8 k)).advance

/-- `RND Vx, nn` (R167) with the input `rnd` given: the meaning for every value of it. -/
def rndResult (rnd : Byte) (x : Reg) (nn : Byte) (s : State) : State :=
  (s.setV x (rnd &&& nn)).advance

/-- Takes the next value of the free input `rnd` (R32; log 3). -/
def State.takeRnd (s : State) : Byte × State := (Config.rnd s.draws, { s with draws := s.draws + 1 })

/-- `RND Vx, nn` (R167). -/
def execRnd (x : Reg) (nn : Byte) (s : State) : Result :=
  .next (rndResult s.takeRnd.1 x nn s.takeRnd.2)

end Sys2Proof.Machine
end

