-- ==== Sys2Proof/Machine/RegisterAlu.lean ====
section
/-! DEFINITION. Register loads and the ALU (spec/41_register_alu.md). -/

namespace Sys2Proof.Machine

/-- `LD Vx, nn` (R101). -/
def execLdImm (x : Reg) (nn : Byte) (s : State) : Result :=
  .next (s.setV x nn).advance

/-- `ADD Vx, nn` (R102): modulo 256, VF not written. -/
def execAddImm (x : Reg) (nn : Byte) (s : State) : Result :=
  .next (s.setV x (s.readV x + nn)).advance

/-- `LD Vx, Vy` (R103). -/
def execLdReg (x y : Reg) (s : State) : Result :=
  .next (s.setV x (s.readV y)).advance

/-- `OR Vx, Vy` (R104): VF not written. -/
def execOrReg (x y : Reg) (s : State) : Result :=
  .next (s.setV x (s.readV x ||| s.readV y)).advance

/-- `AND Vx, Vy` (R105): VF not written. -/
def execAndReg (x y : Reg) (s : State) : Result :=
  .next (s.setV x (s.readV x &&& s.readV y)).advance

/-- `XOR Vx, Vy` (R106): VF not written. -/
def execXorReg (x y : Reg) (s : State) : Result :=
  .next (s.setV x (s.readV x ^^^ s.readV y)).advance

/-- `ADD Vx, Vy` (R107, R112): VF is the carry. -/
def execAddReg (x y : Reg) (s : State) : Result :=
  .next (s.setResultAndFlag x (s.readV x + s.readV y) (carryOut (s.readV x) (s.readV y))).advance

/-- `SUB Vx, Vy` (R108, R112): VF is 1 when no borrow. -/
def execSubReg (x y : Reg) (s : State) : Result :=
  .next (s.setResultAndFlag x (s.readV x - s.readV y) (noBorrow (s.readV x) (s.readV y))).advance

/-- `SHR Vx, Vy` (R109, R112) for either value of `SHIFT_SRC_VY`: bit 7 of the result is 0, VF is bit 0 of the source. -/
def execShrWith (c : Config) (x y : Reg) (s : State) : Result :=
  .next (s.setResultAndFlag x (shiftSource c s x y >>> 1) (shiftedOutRight (shiftSource c s x y))).advance

/-- `SHR Vx, Vy` of this hardware. -/
def execShr (x y : Reg) (s : State) : Result := execShrWith build x y s

/-- `SUBN Vx, Vy` (R110, R112): the reverse subtraction. -/
def execSubn (x y : Reg) (s : State) : Result :=
  .next (s.setResultAndFlag x (s.readV y - s.readV x) (noBorrow (s.readV y) (s.readV x))).advance

/-- `SHL Vx, Vy` (R111, R112) for either value of `SHIFT_SRC_VY`: bit 0 of the result is 0, VF is bit 7 of the source. -/
def execShlWith (c : Config) (x y : Reg) (s : State) : Result :=
  .next (s.setResultAndFlag x (shiftSource c s x y <<< 1) (shiftedOutLeft (shiftSource c s x y))).advance

/-- `SHL Vx, Vy` of this hardware. -/
def execShl (x y : Reg) (s : State) : Result := execShlWith build x y s

end Sys2Proof.Machine
end

