-- ==== Sys2Proof/Machine/Step.lean ====
section
/-! DEFINITION. The STEP algorithm (spec/30_encoding.md R61). -/

namespace Sys2Proof.Machine

/-- Fetch, decode, execute (R61 steps 1 to 3, in the order of R187). -/
def stepRunning (s : State) : Host.Outcome State Fault Refusal :=
  match s.fetch with
  | .error a => .next (s.raise .addressOutOfRange (BitVec.ofNat 16 a))
  | .ok w =>
    match decodeWord w with
    | .error _ => .next (s.raise .unknownOpcode w)
    | .ok i => exec i s

/-- STEP (R61): a halted block executes nothing (R189); its outputs are read by `State.outcome`. -/
def step (s : State) : Host.Outcome State Fault Refusal :=
  if s.fault = .none then stepRunning s.beginStep else .next s.beginStep

/-- The address the fetch reads: the `PC`, or 0x200 where no whole word lies at the `PC`. -/
def State.fetchPlace (s : State) : Word := if s.pc.toNat + 1 < memSize then s.pc else 0x200

/-- `s` with the table's word stored where `step` fetches (log 8): the two bytes in memory, the block not halted, the `PC` at a whole word. -/
def State.withFetchWord (s : State) (nbits w : Nat) : State :=
  { s with
    pc := s.fetchPlace
    fault := .none
    finfo := if s.fault = .none then s.finfo else 0
    mem := s.mem.writeBytes s.fetchPlace.toNat (wordBytes (tableWord nbits w)) }

end Sys2Proof.Machine
end

