-- ==== Sys2Proof/Machine/HostOps.lean ====
section
/-! DEFINITION. The host's operations (spec/10_state.md R30 to R37): RESET, STEP, TICK, SETKEYS and the outputs. -/

namespace Sys2Proof.Machine

/-- One decrement of a timer, only if nonzero (R34). -/
def timerTick (t : Byte) : Byte := if t = 0 then 0 else t - 1

/-- TICK (R34): both timers in the one operation; no effect while halted. -/
def State.tick (s : State) : State :=
  if s.fault = .none then { s with dt := timerTick s.dt, st := timerTick s.st } else s

/-- SETKEYS(mask) (R35): all 16 bits at once; no effect while halted. -/
def State.setKeys (s : State) (mask : Word) : State :=
  if s.fault = .none then { s with keys := mask } else s

/-- RESET(image) (R210 to R216): nothing of the state before it survives. The count of the values of `rnd` already taken goes on, since the source of `rnd` is outside the block (log 3). -/
def State.resetWith (s : State) (image : List Byte) : State :=
  if image.length ≤ imageMax then
    { State.reset with mem := Memory.writeBytes [] progBase image, draws := s.draws }
  else
    { State.reset with
      fault := .imageTooLarge
      finfo := BitVec.ofNat 16 (min image.length 65535)
      draws := s.draws }

/-- StepOutcome, read from the state a STEP leaves (R33; log 4). -/
structure StepOutcome where
  redraw : Bool
  soundActive : Bool
  fault : BitVec 3
  finfo : Word
  deriving DecidableEq, Repr

/-- The outputs after a STEP (R33) and, but for `redraw`, at any time (R36). -/
def State.outcome (s : State) : StepOutcome where
  redraw := s.redraw
  soundActive := s.soundActive
  fault := s.fault.code
  finfo := s.finfo

/-- The framebuffer as the host reads it (R36). -/
def State.pixel (s : State) (x : Fin 64) (y : Fin 32) : Bool := s.fb.get x y

/-- An operation of the host (R31). -/
inductive HostOp where
  | reset (image : List Byte)
  | step
  | tick
  | setKeys (mask : Word)
  deriving DecidableEq, Repr

/-- One operation, atomic with respect to the others (R31). -/
def perform (o : HostOp) (s : State) : Host.Outcome State Fault Refusal :=
  match o with
  | .reset image => .next (s.resetWith image)
  | .step => step s
  | .tick => .next s.tick
  | .setKeys mask => .next (s.setKeys mask)

/-- A sequence of operations (R30: the block's behaviour is a function of it). -/
def runOps : List HostOp → State → Host.Outcome State Fault Refusal
  | [], s => .next s
  | o :: os, s =>
    match perform o s with
    | .next t => runOps os t
    | .fault f => .fault f
    | .refused r => .refused r

end Sys2Proof.Machine
end

