-- ==== Sys2Proof/Safety.lean ====
section
/-! DEFINITION. The terms in which claims are stated: the parts of the state, what leaves a part unchanged, the invariant, and a safe run. -/

namespace Sys2Proof.Machine

/-- The parts of the state, as the spec groups them (spec/10_state.md). `latch` is `FAULT` with `FINFO`; `redraw` and `draws` are the model's own. -/
inductive Part where
  | regs | index | pc | stack | delay | sound | keys | display | memory | latch | redraw | draws
  deriving DecidableEq, Repr

/-- The part reads the same in both states: every register, every stack slot, every pixel, every byte of memory. -/
def Same : Part → State → State → Prop
  | .regs, s, t => ∀ r : Reg, t.readV r = s.readV r
  | .index, s, t => t.i = s.i
  | .pc, s, t => t.pc = s.pc
  | .stack, s, t => t.sp = s.sp ∧ ∀ k : Fin 16, t.stack[k] = s.stack[k]
  | .delay, s, t => t.dt = s.dt
  | .sound, s, t => t.st = s.st
  | .keys, s, t => t.keys = s.keys
  | .display, s, t => ∀ x y, t.pixel x y = s.pixel x y
  | .memory, s, t => ∀ a, t.mem.read a = s.mem.read a
  | .latch, s, t => t.fault = s.fault ∧ t.finfo = s.finfo
  | .redraw, s, t => t.redraw = s.redraw
  | .draws, s, t => t.draws = s.draws

/-- Every part but the named ones is unchanged from `s` to `t`. -/
def Frame (changed : List Part) (s t : State) : Prop := ∀ p, p ∉ changed → Same p s t

/-- The parts an instruction may change, read off its rule (files 40 to 44); an instruction that can raise a fault may change the latch, and with it clears `redraw` (R33). -/
def mayWrite : Instr → List Part
  | .cls => [.display, .redraw, .pc]
  | .ret => [.stack, .pc, .latch, .redraw]
  | .sys _ => [.latch, .redraw]
  | .jp _ => [.pc]
  | .call _ => [.stack, .pc, .latch, .redraw]
  | .seImm _ _ => [.pc]
  | .sneImm _ _ => [.pc]
  | .seReg _ _ => [.pc]
  | .ldImm _ _ => [.regs, .pc]
  | .addImm _ _ => [.regs, .pc]
  | .ldReg _ _ => [.regs, .pc]
  | .orReg _ _ => [.regs, .pc]
  | .andReg _ _ => [.regs, .pc]
  | .xorReg _ _ => [.regs, .pc]
  | .addReg _ _ => [.regs, .pc]
  | .subReg _ _ => [.regs, .pc]
  | .shr _ _ => [.regs, .pc]
  | .subn _ _ => [.regs, .pc]
  | .shl _ _ => [.regs, .pc]
  | .sneReg _ _ => [.pc]
  | .ldI _ => [.index, .pc]
  | .jpV0 _ => [.pc]
  | .rnd _ _ => [.regs, .pc, .draws]
  | .drw _ _ _ => [.display, .regs, .redraw, .pc, .latch]
  | .skp _ => [.pc]
  | .sknp _ => [.pc]
  | .ldVxDt _ => [.regs, .pc]
  | .ldVxK _ => [.regs, .pc]
  | .ldDt _ => [.delay, .pc]
  | .ldSt _ => [.sound, .pc]
  | .addI _ => [.index, .pc]
  | .ldF _ => [.index, .pc]
  | .ldB _ => [.memory, .pc, .latch, .redraw]
  | .ldMemVx _ => [.memory, .index, .pc, .latch, .redraw]
  | .ldVxMem _ => [.regs, .index, .pc, .latch, .redraw]

/-- The instruction a STEP from `s` fetches and decodes (R61 steps 1 and 2). -/
def Fetches (s : State) (i : Instr) : Prop := ∃ w, s.fetch = .ok w ∧ decodeWord w = .ok i

/-- The registers an instruction may write (R11, R16): its destination `x`, `V[0]`..`V[x]` for LD Vx,[I], and `V[15]` for the six flag writers. -/
def mayWriteReg : Instr → Reg → Bool
  | .cls, _ => false
  | .ret, _ => false
  | .sys _, _ => false
  | .jp _, _ => false
  | .call _, _ => false
  | .seImm _ _, _ => false
  | .sneImm _ _, _ => false
  | .seReg _ _, _ => false
  | .ldImm x _, r => r == x
  | .addImm x _, r => r == x
  | .ldReg x _, r => r == x
  | .orReg x _, r => r == x
  | .andReg x _, r => r == x
  | .xorReg x _, r => r == x
  | .addReg x _, r => r == x || r == VF
  | .subReg x _, r => r == x || r == VF
  | .shr x _, r => r == x || r == VF
  | .subn x _, r => r == x || r == VF
  | .shl x _, r => r == x || r == VF
  | .sneReg _ _, _ => false
  | .ldI _, _ => false
  | .jpV0 _, _ => false
  | .rnd x _, r => r == x
  | .drw _ _ _, r => r == VF
  | .skp _, _ => false
  | .sknp _, _ => false
  | .ldVxDt x, r => r == x
  | .ldVxK x, r => r == x
  | .ldDt _, _ => false
  | .ldSt _, _ => false
  | .addI _, _ => false
  | .ldF _, _ => false
  | .ldB _, _ => false
  | .ldMemVx _, _ => false
  | .ldVxMem x, r => decide (r ≤ x)

/-- The table of R13: the new `PC` of an instruction that raises no fault. For RET it is the return address the stack gives, `STACK[SP - 1]`. -/
def pcAfter (i : Instr) (s : State) : Word :=
  match i with
  | .jp nnn => nnn.setWidth 16
  | .jpV0 nnn => nnn.setWidth 16 + (s.readV 0).setWidth 16
  | .call nnn => nnn.setWidth 16
  | .ret => s.stack.toList.getD (s.sp.val - 1) 0
  | .seImm x nn => if s.readV x = nn then s.pc + 4 else s.pc + 2
  | .sneImm x nn => if s.readV x = nn then s.pc + 2 else s.pc + 4
  | .seReg x y => if s.readV x = s.readV y then s.pc + 4 else s.pc + 2
  | .sneReg x y => if s.readV x = s.readV y then s.pc + 2 else s.pc + 4
  | .skp x => if s.keys.getLsbD ((s.readV x).toNat % 16) then s.pc + 4 else s.pc + 2
  | .sknp x => if s.keys.getLsbD ((s.readV x).toNat % 16) then s.pc + 2 else s.pc + 4
  | .ldVxK _ => if s.keys = 0 then s.pc else s.pc + 2
  | .sys _ => s.pc
  | .cls => s.pc + 2
  | .ldImm _ _ => s.pc + 2
  | .addImm _ _ => s.pc + 2
  | .ldReg _ _ => s.pc + 2
  | .orReg _ _ => s.pc + 2
  | .andReg _ _ => s.pc + 2
  | .xorReg _ _ => s.pc + 2
  | .addReg _ _ => s.pc + 2
  | .subReg _ _ => s.pc + 2
  | .shr _ _ => s.pc + 2
  | .subn _ _ => s.pc + 2
  | .shl _ _ => s.pc + 2
  | .ldI _ => s.pc + 2
  | .rnd _ _ => s.pc + 2
  | .drw _ _ _ => s.pc + 2
  | .ldVxDt _ => s.pc + 2
  | .ldDt _ => s.pc + 2
  | .ldSt _ => s.pc + 2
  | .addI _ => s.pc + 2
  | .ldF _ => s.pc + 2
  | .ldB _ => s.pc + 2
  | .ldMemVx _ => s.pc + 2
  | .ldVxMem _ => s.pc + 2

/-- Whether an instruction reads the key register: SKP, SKNP and LD Vx,K (R21). -/
def readsKeys : Instr → Bool
  | .skp _ => true
  | .sknp _ => true
  | .ldVxK _ => true
  | .cls => false
  | .ret => false
  | .sys _ => false
  | .jp _ => false
  | .call _ => false
  | .seImm _ _ => false
  | .sneImm _ _ => false
  | .seReg _ _ => false
  | .ldImm _ _ => false
  | .addImm _ _ => false
  | .ldReg _ _ => false
  | .orReg _ _ => false
  | .andReg _ _ => false
  | .xorReg _ _ => false
  | .addReg _ _ => false
  | .subReg _ _ => false
  | .shr _ _ => false
  | .subn _ _ => false
  | .shl _ _ => false
  | .sneReg _ _ => false
  | .ldI _ => false
  | .jpV0 _ => false
  | .rnd _ _ => false
  | .drw _ _ _ => false
  | .ldVxDt _ => false
  | .ldDt _ => false
  | .ldSt _ => false
  | .addI _ => false
  | .ldF _ => false
  | .ldB _ => false
  | .ldMemVx _ => false
  | .ldVxMem _ => false

/-- Pixel `(px, py)` lies under a 1 bit of the sprite whose `n` row bytes are `row 0`, `row 1`, …, with its origin at `(x0, y0)` (R142): bit `7 - c` of row `r` is at column `(x0 + c) mod 64`, row `(y0 + r) mod 32`. -/
def UnderSpriteBit (row : Nat → Byte) (n x0 y0 : Nat) (px : Fin 64) (py : Fin 32) : Prop :=
  ∃ r c, r < n ∧ c < 8 ∧ (row r).getLsbD (7 - c) = true ∧ px.val = (x0 + c) % 64 ∧ py.val = (y0 + r) % 32

/-- Executes instructions one after the other, each on the state the one before leaves. -/
def execAll : List Instr → State → Result
  | [], s => .next s
  | i :: is, s =>
    match exec i s with
    | .next t => execAll is t
    | .fault f => .fault f
    | .refused r => .refused r

/-- What the fault latch says of the state it was set in (R180): the payload of `FINFO` by the code in `FAULT`, and that no halted state signals a redraw (R33). -/
def State.LatchOk (s : State) : Prop :=
  match s.fault with
  | .none => s.finfo = 0
  | .addressOutOfRange => memSize ≤ s.finfo.toNat ∧ s.redraw = false
  | .stackOverflow => s.finfo = s.pc ∧ s.sp.val = 16 ∧ s.redraw = false
  | .stackUnderflow => s.finfo = s.pc ∧ s.sp.val = 0 ∧ s.redraw = false
  | .unknownOpcode => s.fetch = .ok s.finfo ∧ s.redraw = false
  | .imageTooLarge => imageMax < s.finfo.toNat ∧ s.redraw = false

/-- The invariant of the machine. -/
structure State.Inv (s : State) : Prop where
  /-- Memory keeps its canonical form. -/
  memory : s.mem.wf = true
  /-- "The largest value any rule can give `PC` is 0x10FE" (R14). -/
  pcBound : s.pc.toNat ≤ 0x10FE
  /-- A return address in use is "between 0x002 and 0x1000" (R82). -/
  returns : ∀ k : Fin 16, k.val < s.sp.val → 2 ≤ (s.stack[k]).toNat ∧ (s.stack[k]).toNat ≤ 0x1000
  /-- The latch is consistent. -/
  latch : s.LatchOk

/-- A safe run: "`FAULT = 0` throughout" (R189), before the first operation and after each. -/
def SafeRun : List HostOp → State → Prop
  | [], s => s.fault = .none
  | o :: os, s => s.fault = .none ∧ ∃ t, perform o s = .next t ∧ SafeRun os t

end Sys2Proof.Machine
end

