-- ==== Sys2Proof/Certificates/Slice0/Obligations.lean ====
section
/-! DEFINITION. The statements for the provers. A docstring says which rule of spec/ a statement formalises, and where it rests on a decision the spec marks as its own or on an entry of the model's log. -/

open Sys2Proof Sys2Proof.Machine

/-! ## Encoding -/

/-- The encoder writes and the decoder reads every bit of every operand (R62, R69), whatever bytes follow. The bit patterns are the spec's decision D28. -/
def Obligations.DecodeOfEncodeIsTheInstruction : Prop :=
  ∀ (i : Instr) (rest : List Byte), i.wf = true → decode (encode i ++ rest) = .ok (i, rest)

/-- Every word has one meaning: a word that decodes is the word of the instruction it decodes to, and that instruction is well-formed. -/
def Obligations.EncodeOfDecodeIsTheWord : Prop :=
  ∀ (w : Word) (i : Instr), decodeWord w = .ok i → encodeWord i = w ∧ i.wf = true

/-- The illegal words are exactly those of R65's table (the spec's decision D10), and the decoder names the word. -/
def Obligations.IllegalWordsAreThoseOfTheTable : Prop :=
  ∀ w : Word,
    (∀ e, decodeWord w = .error e → e = .unknownOpcode w) ∧
    ((∃ e, decodeWord w = .error e) ↔
      (w.extractLsb' 12 4 = 0x5 ∧ w.extractLsb' 0 4 ≠ 0x0) ∨
      (w.extractLsb' 12 4 = 0x8 ∧ w.extractLsb' 0 4 ∈ ([0x8, 0x9, 0xA, 0xB, 0xC, 0xD, 0xF] : List (BitVec 4))) ∨
      (w.extractLsb' 12 4 = 0x9 ∧ w.extractLsb' 0 4 ≠ 0x0) ∨
      (w.extractLsb' 12 4 = 0xE ∧ w.extractLsb' 0 8 ∉ ([0x9E, 0xA1] : List (BitVec 8))) ∨
      (w.extractLsb' 12 4 = 0xF ∧
        w.extractLsb' 0 8 ∉ ([0x07, 0x0A, 0x15, 0x18, 0x1E, 0x29, 0x33, 0x55, 0x65] : List (BitVec 8))))

/-- A few words decode to the instructions they stand for: the words the source prints (00E0, 00EE, 600A, 7005), and five that decode so only by the spec's own decisions: D125, EA9E, 220E and F155 by D28, 0123 by D28 and D2 (log 11). -/
def Obligations.PrintedWordsDecode : Prop :=
  decodeWord 0x00E0 = .ok .cls ∧ decodeWord 0x00EE = .ok .ret ∧
  decodeWord 0x600A = .ok (.ldImm 0 0x0A) ∧ decodeWord 0x7005 = .ok (.addImm 0 0x05) ∧
  decodeWord 0xD125 = .ok (.drw 1 2 5) ∧ decodeWord 0xEA9E = .ok (.skp 10) ∧
  decodeWord 0x220E = .ok (.call 0x20E) ∧ decodeWord 0x0123 = .ok (.sys 0x123) ∧
  decodeWord 0xF155 = .ok (.ldMemVx 1)

/-! ## The step -/

/-- A running block whose bytes at `PC` (high byte first) decode to `i` executes `i`; the one thing `step` adds is `redraw <- 0` at its start (R61). -/
def Obligations.StepRunsTheDecodedInstruction : Prop :=
  ∀ (s : State) (i : Instr), s.fault = .none → s.pc.toNat + 1 < 4096 →
    decode [s.mem.read s.pc.toNat, s.mem.read (s.pc.toNat + 1)] = .ok (i, []) →
    step s = exec i { s with redraw := false }

/-- The fetch of R43: two bytes at `PC` and `PC + 1`, big-endian; at 4096 or more the address reported is `PC`, at 4095 it is 4096. -/
def Obligations.FetchIsBigEndianAndRangeChecked : Prop :=
  ∀ s : State,
    (s.pc.toNat ≤ 4094 → s.fetch = .ok (s.mem.read s.pc.toNat ++ s.mem.read (s.pc.toNat + 1))) ∧
    (s.pc.toNat = 4095 → s.fetch = .error 4096) ∧
    (4096 ≤ s.pc.toNat → s.fetch = .error s.pc.toNat)

/-- The faults of fetch and decode (R181 cases (a) and (b), R184): the latch is set with the payload of R180 (the spec's decision D17) and nothing else changes but the output `redraw` (D18, log 2). -/
def Obligations.FetchAndDecodeFaultsSetTheLatch : Prop :=
  ∀ s : State, s.fault = .none →
    (4096 ≤ s.pc.toNat →
      step s = .next { s with fault := .addressOutOfRange, finfo := s.pc, redraw := false }) ∧
    (s.pc.toNat = 4095 →
      step s = .next { s with fault := .addressOutOfRange, finfo := 0x1000, redraw := false }) ∧
    (∀ w e, s.fetch = .ok w → decodeWord w = .error e →
      step s = .next { s with fault := .unknownOpcode, finfo := w, redraw := false })

/-- One STEP always completes: from every state it answers a next state, never a stop ("execution of a single opcode is atomic and runs to completion"; a fault is a next state, log 2). -/
def Obligations.EveryStepAnswersANextState : Prop :=
  ∀ s : State, ∃ t, step s = .next t

/-- Halted (R189; the spec's decision D18): whatever operations but RESET the host performs, the state stays as the fault left it. -/
def Obligations.HaltedUntilReset : Prop :=
  ∀ (ops : List HostOp) (s : State), s.fault ≠ .none → s.redraw = false →
    (∀ image, HostOp.reset image ∉ ops) → runOps ops s = .next s

/-- Faults are precise (R188; the spec's decision D18): a STEP that raises a fault leaves every part of the state but the latch, and the output `redraw` is 0. -/
def Obligations.FaultsArePrecise : Prop :=
  ∀ s t : State, s.fault = .none → step s = .next t → t.fault ≠ .none →
    Frame [.latch, .redraw] s t ∧ t.redraw = false

/-- Which STEP raises which fault, each with its payload (R180 to R187; the spec's decisions D2, D17, D19, D20). An AddressOutOfRange reports the lowest address out of range: of the two bytes at `PC` when the fetch faults, else of the bytes from `I`. -/
def Obligations.FaultsHaveExactlyTheirCauses : Prop :=
  ∀ s t : State, s.fault = .none → step s = .next t →
    (t.fault = .addressOutOfRange ↔
      4096 ≤ s.pc.toNat + 1 ∨
      (∃ x y n, Fetches s (.drw x y n) ∧ n ≠ 0 ∧ 4096 < s.i.toNat + n.val) ∨
      (∃ x, Fetches s (.ldB x) ∧ 4096 < s.i.toNat + 3) ∨
      (∃ x, (Fetches s (.ldMemVx x) ∨ Fetches s (.ldVxMem x)) ∧ 4096 ≤ s.i.toNat + x.val)) ∧
    (t.fault = .stackOverflow ↔ (∃ nnn, Fetches s (.call nnn)) ∧ s.sp.val = 16) ∧
    (t.fault = .stackUnderflow ↔ Fetches s .ret ∧ s.sp.val = 0) ∧
    (t.fault = .unknownOpcode ↔
      (∃ w e, s.fetch = .ok w ∧ decodeWord w = .error e) ∨ (∃ nnn, Fetches s (.sys nnn))) ∧
    t.fault ≠ .imageTooLarge ∧
    (t.fault = .addressOutOfRange → 4096 ≤ s.pc.toNat + 1 → t.finfo.toNat = max s.pc.toNat 4096) ∧
    (t.fault = .addressOutOfRange → s.pc.toNat + 1 < 4096 → t.finfo.toNat = max s.i.toNat 4096) ∧
    (t.fault = .stackOverflow → t.finfo = s.pc) ∧
    (t.fault = .stackUnderflow → t.finfo = s.pc) ∧
    (t.fault = .unknownOpcode → s.fetch = .ok t.finfo)

/-- The output `redraw` of a STEP (R33, R150; that it is not latched is the spec's decision D23; log 4): 1 exactly when the STEP ran CLS or DRW and completed without a fault, whether or not a pixel changed. -/
def Obligations.RedrawReportsDisplayInstructions : Prop :=
  ∀ s t : State, step s = .next t →
    (t.outcome.redraw = true ↔
      s.fault = .none ∧ t.fault = .none ∧ (Fetches s .cls ∨ ∃ x y n, Fetches s (.drw x y n)))

/-! ## Invariants -/

/-- The reset state meets the invariant: memory in canonical form, `PC` at most 0x10FE, return addresses in use between 2 and 0x1000, the latch consistent. -/
def Obligations.ResetMeetsTheInvariant : Prop := State.reset.Inv

/-- Every STEP keeps the invariant (R14: "The largest value any rule can give `PC` is 0x10FE"; R82: a return address is "between 0x002 and 0x1000"; R180: the payload of the latch; log 6: the form of memory). -/
def Obligations.StepKeepsTheInvariant : Prop :=
  ∀ s t : State, s.Inv → step s = .next t → t.Inv

/-- Every sequence of the host's operations, RESET with any image among them, completes and keeps the invariant (R30: the behaviour is a function of that sequence). -/
def Obligations.HostOperationsKeepTheInvariant : Prop :=
  ∀ (ops : List HostOp) (s : State), s.Inv → ∃ t, runOps ops s = .next t ∧ t.Inv

/-- The canonical form is canonical: two memories in it that read the same are the same data (log 6, the model's choice). -/
def Obligations.MemoryFormIsCanonical : Prop :=
  ∀ m m' : Memory, m.wf = true → m'.wf = true → (∀ a, a < 4096 → m.read a = m'.read a) → m = m'

/-! ## What no instruction changes -/

/-- The frame of all 35 instructions: each leaves every part of the state but those its rule writes; in particular no instruction writes `KEYS`, only CLS and DRW touch the framebuffer, only LD B and LD [I],Vx memory, only CALL and RET the stack, only LD DT and LD ST a timer. -/
def Obligations.InstructionsChangeOnlyTheirParts : Prop :=
  ∀ (i : Instr) (s t : State), exec i s = .next t → Frame (mayWrite i) s t

/-- The general registers (R11, R16): an instruction writes no register but its destination, `V[0]`..`V[x]` for LD Vx,[I], and `V[15]` only if it is one of the six flag writers or names it. -/
def Obligations.RegistersWrittenOnlyAsListed : Prop :=
  ∀ (i : Instr) (s t : State) (r : Reg), exec i s = .next t → mayWriteReg i r = false →
    t.readV r = s.readV r

/-- R195: no instruction other than LD DT,Vx and LD ST,Vx writes a timer, and STEP never ticks. -/
def Obligations.TimersChangeOnlyByTheirLoads : Prop :=
  ∀ s t : State, step s = .next t →
    (t.dt = s.dt ∨ ∃ x, Fetches s (.ldDt x) ∧ t.dt = s.readV x) ∧
    (t.st = s.st ∨ ∃ x, Fetches s (.ldSt x) ∧ t.st = s.readV x)

/-- The table of R13: where `PC` goes after each of the 35 instructions when it raises no fault (for SYS there is no such case). The key SKP and SKNP test is R160 to R162's, by the spec's decisions D12 (log 12) and D24 (log 15); the unmasked sum of JP V0 is D9, the wait for a key D3 (log 12). -/
def Obligations.PcAdvanceTable : Prop :=
  ∀ (i : Instr) (s t : State), s.fault = .none → exec i s = .next t → t.fault = .none →
    t.pc = pcAfter i s

/-- Only SKP, SKNP and LD Vx,K depend on the key register (R21): any other instruction does the same whatever the keys are, and leaves them as they are. -/
def Obligations.OtherInstructionsIgnoreTheKeys : Prop :=
  ∀ (i : Instr) (s t : State) (mask : Word), readsKeys i = false → exec i s = .next t →
    exec i { s with keys := mask } = .next { t with keys := mask }

/-! ## Control transfer -/

/-- `JP nnn` (R83). -/
def Obligations.JpGoesToItsAddress : Prop :=
  ∀ (nnn : BitVec 12) (s : State), ∃ t, exec (.jp nnn) s = .next t ∧
    t.pc.toNat = nnn.toNat ∧ Frame [.pc] s t

/-- `JP V0, nnn` (R91; the spec's decision D9): the sum is not reduced to 12 bits. -/
def Obligations.JpV0AddsV0Unreduced : Prop :=
  ∀ (nnn : BitVec 12) (s : State), ∃ t, exec (.jpV0 nnn) s = .next t ∧
    t.pc.toNat = nnn.toNat + (s.readV 0).toNat ∧ Frame [.pc] s t

/-- `CALL nnn` (R84): with room, the address after the CALL is pushed and `PC` goes to `nnn`; with sixteen addresses on the stack StackOverflow is raised and nothing else changes. -/
def Obligations.CallPushesTheReturnAddress : Prop :=
  ∀ (nnn : BitVec 12) (s : State),
    (s.sp.val < 16 → ∃ t, exec (.call nnn) s = .next t ∧
      (∀ k : Fin 16, t.stack[k] = if k.val = s.sp.val then s.pc + 2 else s.stack[k]) ∧
      t.sp.val = s.sp.val + 1 ∧ t.pc.toNat = nnn.toNat ∧ Frame [.stack, .pc] s t) ∧
    (s.sp.val = 16 → ∃ t, exec (.call nnn) s = .next t ∧ t.fault = .stackOverflow ∧
      Frame [.latch, .redraw] s t)

/-- `RET` (R82): with an address on the stack it is popped into `PC` as it is; with none StackUnderflow is raised and nothing else changes. -/
def Obligations.RetPopsThePc : Prop :=
  ∀ s : State,
    (s.sp.val ≠ 0 → ∃ t, exec .ret s = .next t ∧ t.sp.val + 1 = s.sp.val ∧
      (∀ k : Fin 16, k.val + 1 = s.sp.val → t.pc = s.stack[k]) ∧
      (∀ k : Fin 16, t.stack[k] = s.stack[k]) ∧ Frame [.stack, .pc] s t) ∧
    (s.sp.val = 0 → ∃ t, exec .ret s = .next t ∧ t.fault = .stackUnderflow ∧
      Frame [.latch, .redraw] s t)

/-- Last in, first out: a RET right after a CALL returns to the instruction after the CALL with the stack as it was. -/
def Obligations.RetReturnsAfterItsCall : Prop :=
  ∀ (nnn : BitVec 12) (s : State), s.sp.val < 16 →
    ∃ t, execAll [.call nnn, .ret] s = .next t ∧ t.pc = s.pc + 2 ∧ t.sp = s.sp ∧
      (∀ k : Fin 16, k.val < s.sp.val → t.stack[k] = s.stack[k]) ∧ Frame [.stack, .pc] s t

/-- The depth is exactly sixteen (conflict C2): nested CALLs to any addresses from an empty stack succeed up to the sixteenth, and a seventeenth raises StackOverflow. -/
def Obligations.SixteenCallsNestAndSeventeenOverflow : Prop :=
  ∀ (targets : List (BitVec 12)) (s : State), s.fault = .none → s.sp.val = 0 →
    (targets.length ≤ 16 → ∃ t, execAll (targets.map .call) s = .next t ∧
      t.fault = .none ∧ t.sp.val = targets.length) ∧
    (targets.length = 17 → ∃ t, execAll (targets.map .call) s = .next t ∧
      t.fault = .stackOverflow ∧ t.sp.val = 16)

/-- The four skips on registers (R85 to R88): `PC + 4` when the condition holds, else `PC + 2`, nothing else. -/
def Obligations.SkipsCompareRegisters : Prop :=
  ∀ s : State,
    (∀ x nn, ∃ t, exec (.seImm x nn) s = .next t ∧
      t.pc = (if s.readV x = nn then s.pc + 4 else s.pc + 2) ∧ Frame [.pc] s t) ∧
    (∀ x nn, ∃ t, exec (.sneImm x nn) s = .next t ∧
      t.pc = (if s.readV x ≠ nn then s.pc + 4 else s.pc + 2) ∧ Frame [.pc] s t) ∧
    (∀ x y, ∃ t, exec (.seReg x y) s = .next t ∧
      t.pc = (if s.readV x = s.readV y then s.pc + 4 else s.pc + 2) ∧ Frame [.pc] s t) ∧
    (∀ x y, ∃ t, exec (.sneReg x y) s = .next t ∧
      t.pc = (if s.readV x ≠ s.readV y then s.pc + 4 else s.pc + 2) ∧ Frame [.pc] s t)

/-- `SYS nnn` (R81; the spec's decision D2): UnknownOpcode with the word 0nnn, nothing else changes. -/
def Obligations.SysRaisesUnknownOpcode : Prop :=
  ∀ (nnn : BitVec 12) (s : State), ∃ t, exec (.sys nnn) s = .next t ∧
    t.fault = .unknownOpcode ∧ t.finfo.toNat = nnn.toNat ∧ t.redraw = false ∧
    Frame [.latch, .redraw] s t

/-! ## Register loads and the ALU -/

/-- `LD Vx, nn` and `LD Vx, Vy` (R101, R103), VF as destination included. -/
def Obligations.LoadsWriteTheirRegister : Prop :=
  ∀ (s : State) (x : Reg),
    (∀ nn, ∃ t, exec (.ldImm x nn) s = .next t ∧
      (∀ r, t.readV r = if r = x then nn else s.readV r) ∧ t.pc = s.pc + 2 ∧ Frame [.regs, .pc] s t) ∧
    (∀ y, ∃ t, exec (.ldReg x y) s = .next t ∧
      (∀ r, t.readV r = if r = x then s.readV y else s.readV r) ∧ t.pc = s.pc + 2 ∧
      Frame [.regs, .pc] s t)

/-- `ADD Vx, nn`, OR, AND, XOR (R102, R104 to R106): the result goes to `V[x]` and no flag is written (the spec's decisions D7, D8). -/
def Obligations.UnflaggedAluWritesOneRegister : Prop :=
  ∀ (s : State) (x : Reg),
    (∀ nn, ∃ t, exec (.addImm x nn) s = .next t ∧
      (t.readV x).toNat = ((s.readV x).toNat + nn.toNat) % 256 ∧
      (∀ r, r ≠ x → t.readV r = s.readV r) ∧ t.pc = s.pc + 2 ∧ Frame [.regs, .pc] s t) ∧
    (∀ y, ∃ t, exec (.orReg x y) s = .next t ∧
      (∀ b, b < 8 → (t.readV x).getLsbD b = ((s.readV x).getLsbD b || (s.readV y).getLsbD b)) ∧
      (∀ r, r ≠ x → t.readV r = s.readV r) ∧ t.pc = s.pc + 2 ∧ Frame [.regs, .pc] s t) ∧
    (∀ y, ∃ t, exec (.andReg x y) s = .next t ∧
      (∀ b, b < 8 → (t.readV x).getLsbD b = ((s.readV x).getLsbD b && (s.readV y).getLsbD b)) ∧
      (∀ r, r ≠ x → t.readV r = s.readV r) ∧ t.pc = s.pc + 2 ∧ Frame [.regs, .pc] s t) ∧
    (∀ y, ∃ t, exec (.xorReg x y) s = .next t ∧
      (∀ b, b < 8 → (t.readV x).getLsbD b = ((s.readV x).getLsbD b ^^ (s.readV y).getLsbD b)) ∧
      (∀ r, r ≠ x → t.readV r = s.readV r) ∧ t.pc = s.pc + 2 ∧ Frame [.regs, .pc] s t)

/-- `ADD Vx, Vy` (R107): VF is 1 iff `a + b > 255` for every `x`; the result law for every `x` other than 15 (conflict C4: there the register holds the flag). -/
def Obligations.AddSetsSumAndCarry : Prop :=
  ∀ (x y : Reg) (s : State), ∃ t, exec (.addReg x y) s = .next t ∧
    t.readV 15 = (if (s.readV x).toNat + (s.readV y).toNat > 255 then 1 else 0) ∧
    (x ≠ 15 → (t.readV x).toNat = ((s.readV x).toNat + (s.readV y).toNat) % 256) ∧
    (∀ r, r ≠ x → r ≠ 15 → t.readV r = s.readV r) ∧ t.pc = s.pc + 2 ∧ Frame [.regs, .pc] s t

/-- `SUB Vx, Vy` (R108): VF is 1 iff `a >= b` for every `x`; the result is `(a - b) mod 256` for every `x` other than 15 (conflict C4). -/
def Obligations.SubSetsDifferenceAndNoBorrow : Prop :=
  ∀ (x y : Reg) (s : State), ∃ t, exec (.subReg x y) s = .next t ∧
    t.readV 15 = (if (s.readV x).toNat ≥ (s.readV y).toNat then 1 else 0) ∧
    (x ≠ 15 → ((t.readV x).toNat : Int) = ((s.readV x).toNat - (s.readV y).toNat : Int) % 256) ∧
    (∀ r, r ≠ x → r ≠ 15 → t.readV r = s.readV r) ∧ t.pc = s.pc + 2 ∧ Frame [.regs, .pc] s t

/-- `SUBN Vx, Vy` (R110; the spec's decisions D6, D29): the law of SUB with the operands exchanged. -/
def Obligations.SubnSetsReverseDifference : Prop :=
  ∀ (x y : Reg) (s : State), ∃ t, exec (.subn x y) s = .next t ∧
    t.readV 15 = (if (s.readV y).toNat ≥ (s.readV x).toNat then 1 else 0) ∧
    (x ≠ 15 → ((t.readV x).toNat : Int) = ((s.readV y).toNat - (s.readV x).toNat : Int) % 256) ∧
    (∀ r, r ≠ x → r ≠ 15 → t.readV r = s.readV r) ∧ t.pc = s.pc + 2 ∧ Frame [.regs, .pc] s t

/-- SHR and SHL on this hardware, whose `SHIFT_SRC_VY` is true (R109, R111; the spec's decisions D4, D6; log 7): `V[y]` shifted, VF the bit shifted out. -/
def Obligations.ShiftsMoveVyAndSetTheBitOut : Prop :=
  ∀ (x y : Reg) (s : State),
    (∃ t, exec (.shr x y) s = .next t ∧
      (t.readV 15).toNat = (s.readV y).toNat % 2 ∧
      (x ≠ 15 → (t.readV x).toNat = (s.readV y).toNat / 2) ∧
      (∀ r, r ≠ x → r ≠ 15 → t.readV r = s.readV r) ∧ t.pc = s.pc + 2 ∧ Frame [.regs, .pc] s t) ∧
    (∃ t, exec (.shl x y) s = .next t ∧
      (t.readV 15).toNat = (s.readV y).toNat / 128 ∧
      (x ≠ 15 → (t.readV x).toNat = (s.readV y).toNat * 2 % 256) ∧
      (∀ r, r ≠ x → r ≠ 15 → t.readV r = s.readV r) ∧ t.pc = s.pc + 2 ∧ Frame [.regs, .pc] s t)

/-- With `SHIFT_SRC_VY` false the `y` field is ignored and `V[x]` is shifted in place (R109, R111; decision D4). -/
def Obligations.ShiftsInPlaceWithTheOtherParameter : Prop :=
  ∀ (c : Config) (x y : Reg) (s : State), c.shiftSrcVy = false →
    (∃ t, execShrWith c x y s = .next t ∧
      (t.readV 15).toNat = (s.readV x).toNat % 2 ∧
      (x ≠ 15 → (t.readV x).toNat = (s.readV x).toNat / 2) ∧
      (∀ r, r ≠ x → r ≠ 15 → t.readV r = s.readV r) ∧ t.pc = s.pc + 2 ∧ Frame [.regs, .pc] s t) ∧
    (∃ t, execShlWith c x y s = .next t ∧
      (t.readV 15).toNat = (s.readV x).toNat / 128 ∧
      (x ≠ 15 → (t.readV x).toNat = (s.readV x).toNat * 2 % 256) ∧
      (∀ r, r ≠ x → r ≠ 15 → t.readV r = s.readV r) ∧ t.pc = s.pc + 2 ∧ Frame [.regs, .pc] s t)

/-! ## Index and memory -/

/-- `LD I, nnn` (R121). -/
def Obligations.LdISetsTheIndex : Prop :=
  ∀ (nnn : BitVec 12) (s : State), ∃ t, exec (.ldI nnn) s = .next t ∧
    t.i.toNat = nnn.toNat ∧ t.pc = s.pc + 2 ∧ Frame [.index, .pc] s t

/-- `ADD I, Vx` (R122; the spec's decision D8): modulo 65536, no flag, no fault. -/
def Obligations.AddIWrapsAtSixteenBits : Prop :=
  ∀ (x : Reg) (s : State), ∃ t, exec (.addI x) s = .next t ∧
    t.i.toNat = (s.i.toNat + (s.readV x).toNat) % 65536 ∧ t.pc = s.pc + 2 ∧ Frame [.index, .pc] s t

/-- `LD F, Vx` (R123, R124; the spec's decision D11): `I` is the address of the glyph of `V[x][3:0]`, on this hardware (FONT_BASE 0) and for every legal `FONT_BASE`; in memory as RESET leaves it the five bytes there are the glyph's. -/
def Obligations.LdFPointsAtTheGlyph : Prop :=
  ∀ (x : Reg) (s : State),
    (∃ t, exec (.ldF x) s = .next t ∧ t.i.toNat = 5 * ((s.readV x).toNat % 16) ∧
      t.pc = s.pc + 2 ∧ Frame [.index, .pc] s t ∧
      (∀ k, k < 5 → State.reset.mem.read (t.i.toNat + k) =
        fontBytes.getD (5 * ((s.readV x).toNat % 16) + k) 0)) ∧
    (∀ c : Config, c.wf = true → ∃ t, execLdFWith c x s = .next t ∧
      t.i.toNat = c.fontBase + 5 * ((s.readV x).toNat % 16) ∧ t.pc = s.pc + 2 ∧ Frame [.index, .pc] s t)

/-- `LD B, Vx` (R125; digit order is the spec's decision D29): the three decimal digits of `V[x]`, hundreds at `I`; every other byte and `I` unchanged. -/
def Obligations.LdBStoresTheDecimalDigits : Prop :=
  ∀ (x : Reg) (s : State), s.i.toNat + 2 < 4096 → ∃ t, exec (.ldB x) s = .next t ∧
    (t.mem.read s.i.toNat).toNat = (s.readV x).toNat / 100 ∧
    (t.mem.read (s.i.toNat + 1)).toNat = (s.readV x).toNat / 10 % 10 ∧
    (t.mem.read (s.i.toNat + 2)).toNat = (s.readV x).toNat % 10 ∧
    (∀ a, a < s.i.toNat ∨ s.i.toNat + 2 < a → t.mem.read a = s.mem.read a) ∧
    t.pc = s.pc + 2 ∧ Frame [.memory, .pc] s t

/-- `LD [I], Vx` (R126; the spec's decisions D5, D29): `V[0]`..`V[x]` at rising addresses, every other byte unchanged; `I` ends after the last byte on this hardware, and stays when `MEM_INC_I` is false. -/
def Obligations.LdMemVxStoresTheRegisters : Prop :=
  ∀ (x : Reg) (s : State), s.i.toNat + x.val < 4096 →
    (∃ t, exec (.ldMemVx x) s = .next t ∧
      (∀ k : Reg, k ≤ x → t.mem.read (s.i.toNat + k.val) = s.readV k) ∧
      (∀ a, a < s.i.toNat ∨ s.i.toNat + x.val < a → t.mem.read a = s.mem.read a) ∧
      t.i.toNat = s.i.toNat + x.val + 1 ∧ t.pc = s.pc + 2 ∧ Frame [.memory, .index, .pc] s t) ∧
    (∀ c : Config, c.memIncI = false → ∃ t, execLdMemVxWith c x s = .next t ∧
      (∀ k : Reg, k ≤ x → t.mem.read (s.i.toNat + k.val) = s.readV k) ∧
      (∀ a, a < s.i.toNat ∨ s.i.toNat + x.val < a → t.mem.read a = s.mem.read a) ∧
      t.pc = s.pc + 2 ∧ Frame [.memory, .pc] s t)

/-- `LD Vx, [I]` (R127; the spec's decisions D5, D29): `V[0]`..`V[x]` from rising addresses, every other register unchanged; `I` as for the dump. -/
def Obligations.LdVxMemLoadsTheRegisters : Prop :=
  ∀ (x : Reg) (s : State), s.i.toNat + x.val < 4096 →
    (∃ t, exec (.ldVxMem x) s = .next t ∧
      (∀ r : Reg, t.readV r = if r ≤ x then s.mem.read (s.i.toNat + r.val) else s.readV r) ∧
      t.i.toNat = s.i.toNat + x.val + 1 ∧ t.pc = s.pc + 2 ∧ Frame [.regs, .index, .pc] s t) ∧
    (∀ c : Config, c.memIncI = false → ∃ t, execLdVxMemWith c x s = .next t ∧
      (∀ r : Reg, t.readV r = if r ≤ x then s.mem.read (s.i.toNat + r.val) else s.readV r) ∧
      t.pc = s.pc + 2 ∧ Frame [.regs, .pc] s t)

/-- The four memory instructions out of range (R120, R181 cases (c) to (e); the spec's decisions D17 to D20): AddressOutOfRange with the lowest offending address, nothing else changes. -/
def Obligations.MemoryInstructionsFaultOutOfRange : Prop :=
  ∀ (s : State) (x : Reg),
    (4096 ≤ s.i.toNat + 2 → ∃ t, exec (.ldB x) s = .next t ∧
      t.fault = .addressOutOfRange ∧ t.finfo.toNat = max s.i.toNat 4096 ∧ Frame [.latch, .redraw] s t) ∧
    (4096 ≤ s.i.toNat + x.val → ∃ t, exec (.ldMemVx x) s = .next t ∧
      t.fault = .addressOutOfRange ∧ t.finfo.toNat = max s.i.toNat 4096 ∧ Frame [.latch, .redraw] s t) ∧
    (4096 ≤ s.i.toNat + x.val → ∃ t, exec (.ldVxMem x) s = .next t ∧
      t.fault = .addressOutOfRange ∧ t.finfo.toNat = max s.i.toNat 4096 ∧ Frame [.latch, .redraw] s t) ∧
    (∀ (y : Reg) (n : Fin 16), n ≠ 0 → 4096 ≤ s.i.toNat + n.val - 1 → ∃ t, exec (.drw x y n) s = .next t ∧
      t.fault = .addressOutOfRange ∧ t.finfo.toNat = max s.i.toNat 4096 ∧ Frame [.latch, .redraw] s t)

/-- A register dump followed by a load from the same address restores `V[0]`..`V[x]`, whatever the registers held in between. -/
def Obligations.DumpThenLoadRestoresTheRegisters : Prop :=
  ∀ (x : Reg) (s : State) (between : Vector Byte 16), s.i.toNat + x.val < 4096 →
    ∃ t u, exec (.ldMemVx x) s = .next t ∧
      exec (.ldVxMem x) { t with i := s.i, v := between } = .next u ∧
      (∀ k : Reg, k ≤ x → u.readV k = s.readV k) ∧ (∀ k : Reg, x < k → u.readV k = between[k])

/-- Stores are seen by the very next fetch (R51): after LD [I],Vx at any even or odd address a fetch there reads the bytes just stored, high byte first. -/
def Obligations.StoredBytesAreFetched : Prop :=
  ∀ (x : Reg) (s : State), 1 ≤ x.val → s.i.toNat + x.val < 4096 →
    ∃ t, exec (.ldMemVx x) s = .next t ∧ State.fetch { t with pc := s.i } = .ok (s.readV 0 ++ s.readV 1)

/-! ## Keys, timers, random -/

/-- `LD Vx, DT`, `LD DT, Vx`, `LD ST, Vx` (R164, R165, R166): after the last, `sound_active` is 1 exactly when `V[x] != 0`. -/
def Obligations.TimerMoves : Prop :=
  ∀ (x : Reg) (s : State),
    (∃ t, exec (.ldVxDt x) s = .next t ∧ (∀ r, t.readV r = if r = x then s.dt else s.readV r) ∧
      t.pc = s.pc + 2 ∧ Frame [.regs, .pc] s t) ∧
    (∃ t, exec (.ldDt x) s = .next t ∧ t.dt = s.readV x ∧ t.pc = s.pc + 2 ∧ Frame [.delay, .pc] s t) ∧
    (∃ t, exec (.ldSt x) s = .next t ∧ t.st = s.readV x ∧ (t.soundActive = true ↔ s.readV x ≠ 0) ∧
      t.pc = s.pc + 2 ∧ Frame [.sound, .pc] s t)

/-- SKP and SKNP (R160 to R162; the spec's decisions D12, D24): the key is `V[x][3:0]`. -/
def Obligations.KeySkipsTestTheNamedKey : Prop :=
  ∀ (x : Reg) (s : State),
    (∃ t, exec (.skp x) s = .next t ∧
      t.pc = (if s.keys.getLsbD ((s.readV x).toNat % 16) then s.pc + 4 else s.pc + 2) ∧ Frame [.pc] s t) ∧
    (∃ t, exec (.sknp x) s = .next t ∧
      t.pc = (if s.keys.getLsbD ((s.readV x).toNat % 16) then s.pc + 2 else s.pc + 4) ∧ Frame [.pc] s t)

/-- `LD Vx, K` (R163; the spec's decision D3): with no key down nothing changes, `PC` included; with a key down `V[x]` gets the least one. -/
def Obligations.WaitForKeyTakesTheLeastKey : Prop :=
  ∀ (x : Reg) (s : State),
    (s.keys = 0 → exec (.ldVxK x) s = .next s) ∧
    (s.keys ≠ 0 → ∃ t, exec (.ldVxK x) s = .next t ∧
      (∃ k, k < 16 ∧ s.keys.getLsbD k = true ∧ (∀ j, j < k → s.keys.getLsbD j = false) ∧
        (t.readV x).toNat = k) ∧
      (∀ r, r ≠ x → t.readV r = s.readV r) ∧ t.pc = s.pc + 2 ∧ Frame [.regs, .pc] s t)

/-- `RND Vx, nn` (R167, R32; the spec's decisions D15, D29): `V[x]` is the free value `rnd` ANDed with `nn`, a new value of `rnd` each time (log 3); for every value of `rnd` every bit where `nn` has a 0 is 0, and `V[x] <= nn`. -/
def Obligations.RndMasksTheFreeByte : Prop :=
  ∀ (x : Reg) (nn : Byte) (s : State),
    (∃ t, exec (.rnd x nn) s = .next t ∧
      (∀ r, t.readV r = if r = x then Config.rnd s.draws &&& nn else s.readV r) ∧
      t.draws = s.draws + 1 ∧ t.pc = s.pc + 2 ∧ Frame [.regs, .pc, .draws] s t) ∧
    (∀ rnd : Byte,
      (∀ b, nn.getLsbD b = false → ((rndResult rnd x nn s).readV x).getLsbD b = false) ∧
      ((rndResult rnd x nn s).readV x).toNat ≤ nn.toNat)

/-- TICK (R34): one less for each nonzero timer, and nothing while halted, which is the spec's decision D18 (log 13). -/
def Obligations.TickDecrementsBothTimers : Prop :=
  ∀ s : State,
    (s.fault = .none →
      s.tick.dt.toNat = s.dt.toNat - 1 ∧ s.tick.st.toNat = s.st.toNat - 1 ∧ Frame [.delay, .sound] s s.tick) ∧
    (s.fault ≠ .none → s.tick = s)

/-- `k` TICKs (R194): a timer at `v` reads `v - k`, and 0 after more; it does not wrap. -/
def Obligations.TicksCountDownToZero : Prop :=
  ∀ (k : Nat) (s : State), s.fault = .none →
    ∃ t, runOps (List.replicate k .tick) s = .next t ∧
      t.dt.toNat = s.dt.toNat - k ∧ t.st.toNat = s.st.toNat - k ∧ Frame [.delay, .sound] s t

/-- SETKEYS (R35): all 16 bits at once, of two SETKEYS only the last is seen, and nothing while halted, which is the spec's decision D18 (log 13). -/
def Obligations.SetKeysWritesAllSixteenBits : Prop :=
  ∀ (mask : Word) (s : State),
    (s.fault = .none → (s.setKeys mask).keys = mask ∧ Frame [.keys] s (s.setKeys mask)) ∧
    (s.fault ≠ .none → s.setKeys mask = s) ∧
    (∀ earlier, (s.setKeys earlier).setKeys mask = s.setKeys mask)

/-! ## Display -/

/-- `CLS` (R141): the word 00E0 makes every pixel 0 and `redraw` 1 whatever was there; VF and all else is not written, and no fault is raised. -/
def Obligations.ClsClearsEveryPixel : Prop :=
  decodeWord 0x00E0 = .ok .cls ∧
  ∀ s : State, ∃ t, exec .cls s = .next t ∧ (∀ px py, t.pixel px py = false) ∧
    t.redraw = true ∧ t.pc = s.pc + 2 ∧ Frame [.display, .redraw, .pc] s t

/-- `DRW Vx, Vy, n` (R142 to R150; the spec's decisions D13, D14, D29): exactly the pixels under a 1 bit of the sprite are toggled, wrapping in both directions; VF is 1 iff one of them was set, else 0; `redraw` is 1; `I`, memory and the other registers are unchanged. With `n = 0` it completes whatever `I` holds. -/
def Obligations.DrwXorsTheSpriteAndReportsCollision : Prop :=
  ∀ (x y : Reg) (n : Fin 16) (s : State), (n = 0 ∨ s.i.toNat + n.val ≤ 4096) →
    ∃ t, exec (.drw x y n) s = .next t ∧
      (∀ px py,
        (UnderSpriteBit (fun r => s.mem.read (s.i.toNat + r)) n.val
            ((s.readV x).toNat % 64) ((s.readV y).toNat % 32) px py → t.pixel px py = !s.pixel px py) ∧
        (¬ UnderSpriteBit (fun r => s.mem.read (s.i.toNat + r)) n.val
            ((s.readV x).toNat % 64) ((s.readV y).toNat % 32) px py → t.pixel px py = s.pixel px py)) ∧
      ((∃ px py, UnderSpriteBit (fun r => s.mem.read (s.i.toNat + r)) n.val
            ((s.readV x).toNat % 64) ((s.readV y).toNat % 32) px py ∧ s.pixel px py = true) → t.readV 15 = 1) ∧
      ((¬ ∃ px py, UnderSpriteBit (fun r => s.mem.read (s.i.toNat + r)) n.val
            ((s.readV x).toNat % 64) ((s.readV y).toNat % 32) px py ∧ s.pixel px py = true) → t.readV 15 = 0) ∧
      (∀ r, r ≠ 15 → t.readV r = s.readV r) ∧ t.redraw = true ∧ t.pc = s.pc + 2 ∧
      Frame [.display, .regs, .redraw, .pc] s t

/-- Horizontal wrap (R144): a full row drawn at `x0` toggles columns `(x0 + c) mod 64`, c = 0..7, of the same row and no other pixel. -/
def Obligations.RowsWrapAroundTheWidth : Prop :=
  ∀ (fb : Framebuffer) (x0 y0 : Nat) (px : Fin 64) (py : Fin 32),
    ((py.val = y0 % 32 ∧ ∃ c, c < 8 ∧ px.val = (x0 + c) % 64) →
      (fb.blit x0 y0 [0xFF]).1.get px py = !fb.get px py) ∧
    ((¬ (py.val = y0 % 32 ∧ ∃ c, c < 8 ∧ px.val = (x0 + c) % 64)) →
      (fb.blit x0 y0 [0xFF]).1.get px py = fb.get px py)

/-- Drawing the same sprite twice restores the display, and the second draw collides exactly when the first left a pixel set, that is when a pixel under a 1 bit was clear before (R151 (a)). -/
def Obligations.DrawingTwiceRestoresTheDisplay : Prop :=
  ∀ (fb : Framebuffer) (x0 y0 : Nat) (sprite : List Byte), sprite.length ≤ 15 →
    ((fb.blit x0 y0 sprite).1.blit x0 y0 sprite).1 = fb ∧
    (((fb.blit x0 y0 sprite).1.blit x0 y0 sprite).2 = true ↔
      ∃ px py, UnderSpriteBit (fun r => sprite.getD r 0) sprite.length x0 y0 px py ∧ fb.get px py = false)

/-! ## Reset -/

/-- RESET with an image that fits (R210 to R213, R215): every register at its value (but for `PC` the spec's decision D16), the framebuffer clear, no redraw; nothing of the state before it survives, but that the count of free values taken goes on (log 3). The stack slots are not named: they are unspecified (log 5). -/
def Obligations.ResetSetsEveryRegister : Prop :=
  ∀ (image : List Byte) (s s' : State), image.length ≤ 3584 →
    (s.resetWith image).pc = 0x200 ∧ (∀ r, (s.resetWith image).readV r = 0) ∧
    (s.resetWith image).i = 0 ∧ (s.resetWith image).sp.val = 0 ∧ (s.resetWith image).dt = 0 ∧
    (s.resetWith image).st = 0 ∧ (s.resetWith image).keys = 0 ∧ (s.resetWith image).fault = .none ∧
    (s.resetWith image).finfo = 0 ∧ (∀ px py, (s.resetWith image).pixel px py = false) ∧
    (s.resetWith image).redraw = false ∧
    s.resetWith image = { s'.resetWith image with draws := s.draws }

/-- Memory after RESET with an image that fits (R212; the spec's decisions D11, D16): the image from 0x200, the font below, every other byte 0. -/
def Obligations.ResetLoadsFontAndImage : Prop :=
  ∀ (image : List Byte) (s : State), image.length ≤ 3584 →
    (∀ k, k < image.length → (s.resetWith image).mem.read (0x200 + k) = image.getD k 0) ∧
    (∀ a, a < 80 → (s.resetWith image).mem.read a = fontBytes.getD a 0) ∧
    (∀ a, 80 ≤ a → a < 0x200 → (s.resetWith image).mem.read a = 0) ∧
    (∀ a, 0x200 + image.length ≤ a → a < 4096 → (s.resetWith image).mem.read a = 0) ∧
    (s.resetWith image).mem.wf = true

/-- RESET with an image that does not fit (R216; the spec's decisions D16, D26): halted from the start, the host reading FAULT 5 and the length in FINFO; no image byte is copied, and every other register is as after a RESET that succeeds. -/
def Obligations.OversizedImageHaltsAtReset : Prop :=
  ∀ (image : List Byte) (s : State), 3584 < image.length →
    (s.resetWith image).fault = .imageTooLarge ∧ (s.resetWith image).finfo.toNat = min image.length 65535 ∧
    (s.resetWith image).outcome = ⟨false, false, 5, (s.resetWith image).finfo⟩ ∧
    (∀ a, (s.resetWith image).mem.read a = State.reset.mem.read a) ∧ (s.resetWith image).mem.wf = true ∧
    (s.resetWith image).pc = 0x200 ∧ (∀ r, (s.resetWith image).readV r = 0) ∧
    (s.resetWith image).i = 0 ∧ (s.resetWith image).sp.val = 0 ∧ (s.resetWith image).dt = 0 ∧
    (s.resetWith image).st = 0 ∧ (s.resetWith image).keys = 0 ∧ (s.resetWith image).redraw = false ∧
    (∀ px py, (s.resetWith image).pixel px py = false)

/-! ## Outputs -/

/-- What the host reads (R33, R36): `sound_active` is 1 exactly when `ST != 0`, `FINFO` is the register, and `FAULT` has the number R180 gives each fault (the spec's decision D17, log 13). `redraw` is the statement RedrawReportsDisplayInstructions. -/
def Obligations.OutputsReportSoundAndFault : Prop :=
  ∀ s : State,
    (s.outcome.soundActive = true ↔ s.st ≠ 0) ∧ s.outcome.finfo = s.finfo ∧
    (s.fault = .none ↔ s.outcome.fault = 0) ∧ (s.fault = .addressOutOfRange ↔ s.outcome.fault = 1) ∧
    (s.fault = .stackOverflow ↔ s.outcome.fault = 2) ∧ (s.fault = .stackUnderflow ↔ s.outcome.fault = 3) ∧
    (s.fault = .unknownOpcode ↔ s.outcome.fault = 4) ∧ (s.fault = .imageTooLarge ↔ s.outcome.fault = 5)
end

