-- ==== Sys2Proof/Laws/Decode.lean ====
section
/-! SUPPORT. The decoder's row test, nibble by nibble, and the nibbles and fields of each encoded form (spec/30_encoding.md R62, R64, R69). -/

namespace Sys2Proof

/-- Nibble `k` of a word; nibble 3 is `op`, 2 is `x`, 1 is `y`, 0 is `n`. -/
abbrev nibble (w : Word) (k : Nat) : BitVec 4 := w.extractLsb' (4 * k) 4

theorem word_eq_iff_nibbles (a b : Word) :
    a = b ↔ nibble a 3 = nibble b 3 ∧ nibble a 2 = nibble b 2 ∧ nibble a 1 = nibble b 1 ∧ nibble a 0 = nibble b 0 := by
  constructor
  · rintro rfl; simp
  · rintro ⟨h3, h2, h1, h0⟩
    have key : ∀ k, nibble a k = nibble b k → ∀ j, j < 4 → a.getLsbD (4 * k + j) = b.getLsbD (4 * k + j) := by
      intro k h j hj
      simpa [nibble, hj] using congrArg (fun v => v.getLsbD j) h
    apply BitVec.eq_of_getLsbD_eq
    intro i hi
    rcases (by omega : i < 4 ∨ (4 ≤ i ∧ i < 8) ∨ (8 ≤ i ∧ i < 12) ∨ (12 ≤ i ∧ i < 16)) with h | h | h | h
    · simpa using key 0 h0 i h
    · simpa [show 4 * 1 + (i - 4) = i by omega] using key 1 h1 (i - 4) (by omega)
    · simpa [show 4 * 2 + (i - 8) = i by omega] using key 2 h2 (i - 8) (by omega)
    · simpa [show 4 * 3 + (i - 12) = i by omega] using key 3 h3 (i - 12) (by omega)

theorem nibble_and (a b : Word) (k : Nat) : nibble (a &&& b) k = nibble a k &&& nibble b k := by
  apply BitVec.eq_of_getLsbD_eq
  intro i hi
  simp [nibble, hi]

/-- The row test of R64 compares the four nibbles under the mask. -/
theorem rowTest_eq (w m p : Word) :
    (w &&& m == p) =
      ((nibble w 3 &&& nibble m 3 == nibble p 3) && (nibble w 2 &&& nibble m 2 == nibble p 2) &&
        (nibble w 1 &&& nibble m 1 == nibble p 1) && (nibble w 0 &&& nibble m 0 == nibble p 0)) := by
  rw [Bool.eq_iff_iff]
  simp only [beq_iff_eq, Bool.and_eq_true, word_eq_iff_nibbles (w &&& m) p, nibble_and]
  tauto

/-! ### Format A -/

theorem getLsbD_formA (op : BitVec 4) (nnn : BitVec 12) (i : Nat) :
    (formA op nnn).getLsbD i = if i < 12 then nnn.getLsbD i else op.getLsbD (i - 12) :=
  BitVec.getLsbD_append

theorem nibble_formA_op (op : BitVec 4) (nnn : BitVec 12) : nibble (formA op nnn) 3 = op := by
  apply BitVec.eq_of_getLsbD_eq
  intro i hi
  simp only [nibble, BitVec.getLsbD_extractLsb', getLsbD_formA, hi, decide_true, Bool.true_and]
  rw [if_neg (by omega)]
  congr 1; omega

theorem fieldNNN_formA (op : BitVec 4) (nnn : BitVec 12) : fieldNNN (formA op nnn) = nnn := by
  apply BitVec.eq_of_getLsbD_eq
  intro i hi
  simp only [fieldNNN, BitVec.getLsbD_extractLsb', getLsbD_formA, hi, decide_true, Bool.true_and, Nat.zero_add, if_pos]

/-! ### Formats XI and X -/

theorem getLsbD_formXI (op : BitVec 4) (x : Reg) (nn : Byte) (i : Nat) :
    (formXI op x nn).getLsbD i =
      if i < 8 then nn.getLsbD i
      else if i < 12 then (BitVec.ofFin (w := 4) x).getLsbD (i - 8) else op.getLsbD (i - 12) := by
  show ((op ++ BitVec.ofFin (w := 4) x) ++ nn).getLsbD i = _
  rw [BitVec.getLsbD_append]
  split
  · rfl
  · rw [BitVec.getLsbD_append, show i - 8 - 4 = i - 12 by omega]
    by_cases h : i < 12
    · rw [if_pos h, if_pos (by omega)]
    · rw [if_neg h, if_neg (by omega)]

theorem nibble_formXI_op (op : BitVec 4) (x : Reg) (nn : Byte) : nibble (formXI op x nn) 3 = op := by
  apply BitVec.eq_of_getLsbD_eq
  intro i hi
  simp only [nibble, BitVec.getLsbD_extractLsb', getLsbD_formXI, hi, decide_true, Bool.true_and]
  rw [if_neg (by omega), if_neg (by omega)]
  congr 1; omega

theorem nibble_formXI_x (op : BitVec 4) (x : Reg) (nn : Byte) :
    nibble (formXI op x nn) 2 = BitVec.ofFin (w := 4) x := by
  apply BitVec.eq_of_getLsbD_eq
  intro i hi
  simp only [nibble, BitVec.getLsbD_extractLsb', getLsbD_formXI, hi, decide_true, Bool.true_and]
  rw [if_neg (by omega), if_pos (by omega)]
  congr 1; omega

theorem nibble_formXI_hi (op : BitVec 4) (x : Reg) (nn : Byte) :
    nibble (formXI op x nn) 1 = nn.extractLsb' 4 4 := by
  apply BitVec.eq_of_getLsbD_eq
  intro i hi
  simp only [nibble, BitVec.getLsbD_extractLsb', getLsbD_formXI, hi, decide_true, Bool.true_and]
  rw [if_pos (by omega)]

theorem nibble_formXI_lo (op : BitVec 4) (x : Reg) (nn : Byte) :
    nibble (formXI op x nn) 0 = nn.extractLsb' 0 4 := by
  apply BitVec.eq_of_getLsbD_eq
  intro i hi
  simp only [nibble, BitVec.getLsbD_extractLsb', getLsbD_formXI, hi, decide_true, Bool.true_and]
  rw [if_pos (by omega)]

theorem fieldX_formXI (op : BitVec 4) (x : Reg) (nn : Byte) : fieldX (formXI op x nn) = x := by
  show (nibble (formXI op x nn) 2).toFin = x
  rw [nibble_formXI_x]

theorem fieldNN_formXI (op : BitVec 4) (x : Reg) (nn : Byte) : fieldNN (formXI op x nn) = nn := by
  apply BitVec.eq_of_getLsbD_eq
  intro i hi
  simp only [fieldNN, BitVec.getLsbD_extractLsb', getLsbD_formXI, hi, decide_true, Bool.true_and, Nat.zero_add, if_pos]

/-! ### Formats XY and XYN -/

theorem getLsbD_formXYN (op : BitVec 4) (x y : Reg) (n : BitVec 4) (i : Nat) :
    (formXYN op x y n).getLsbD i =
      if i < 4 then n.getLsbD i
      else if i < 8 then (BitVec.ofFin (w := 4) y).getLsbD (i - 4)
      else if i < 12 then (BitVec.ofFin (w := 4) x).getLsbD (i - 8) else op.getLsbD (i - 12) := by
  show (((op ++ BitVec.ofFin (w := 4) x) ++ BitVec.ofFin (w := 4) y) ++ n).getLsbD i = _
  rw [BitVec.getLsbD_append]
  split
  · rfl
  · rw [BitVec.getLsbD_append]
    by_cases h : i < 8
    · rw [if_pos h, if_pos (by omega)]
    · rw [if_neg h, if_neg (by omega), BitVec.getLsbD_append, show i - 4 - 4 = i - 8 by omega,
        show i - 8 - 4 = i - 12 by omega]
      by_cases h' : i < 12
      · rw [if_pos h', if_pos (by omega)]
      · rw [if_neg h', if_neg (by omega)]

theorem nibble_formXYN_op (op : BitVec 4) (x y : Reg) (n : BitVec 4) : nibble (formXYN op x y n) 3 = op := by
  apply BitVec.eq_of_getLsbD_eq
  intro i hi
  simp only [nibble, BitVec.getLsbD_extractLsb', getLsbD_formXYN, hi, decide_true, Bool.true_and]
  rw [if_neg (by omega), if_neg (by omega), if_neg (by omega)]
  congr 1; omega

theorem nibble_formXYN_x (op : BitVec 4) (x y : Reg) (n : BitVec 4) :
    nibble (formXYN op x y n) 2 = BitVec.ofFin (w := 4) x := by
  apply BitVec.eq_of_getLsbD_eq
  intro i hi
  simp only [nibble, BitVec.getLsbD_extractLsb', getLsbD_formXYN, hi, decide_true, Bool.true_and]
  rw [if_neg (by omega), if_neg (by omega), if_pos (by omega)]
  congr 1; omega

theorem nibble_formXYN_y (op : BitVec 4) (x y : Reg) (n : BitVec 4) :
    nibble (formXYN op x y n) 1 = BitVec.ofFin (w := 4) y := by
  apply BitVec.eq_of_getLsbD_eq
  intro i hi
  simp only [nibble, BitVec.getLsbD_extractLsb', getLsbD_formXYN, hi, decide_true, Bool.true_and]
  rw [if_neg (by omega), if_pos (by omega)]
  congr 1; omega

theorem nibble_formXYN_n (op : BitVec 4) (x y : Reg) (n : BitVec 4) : nibble (formXYN op x y n) 0 = n := by
  apply BitVec.eq_of_getLsbD_eq
  intro i hi
  simp only [nibble, BitVec.getLsbD_extractLsb', getLsbD_formXYN, hi, decide_true, Bool.true_and]
  rw [if_pos (by omega)]
  congr 1; omega

theorem fieldX_formXYN (op : BitVec 4) (x y : Reg) (n : BitVec 4) : fieldX (formXYN op x y n) = x := by
  show (nibble (formXYN op x y n) 2).toFin = x
  rw [nibble_formXYN_x]

theorem fieldY_formXYN (op : BitVec 4) (x y : Reg) (n : BitVec 4) : fieldY (formXYN op x y n) = y := by
  show (nibble (formXYN op x y n) 1).toFin = y
  rw [nibble_formXYN_y]

theorem fieldN_formXYN (op : BitVec 4) (x y : Reg) (n : BitVec 4) : fieldN (formXYN op x y n) = n.toFin := by
  show (nibble (formXYN op x y n) 0).toFin = n.toFin
  rw [nibble_formXYN_n]

/-! ### Bytes -/

/-- The two bytes of a word, joined again (R43). -/
theorem joinBytes_wordBytes (w : Word) : joinBytes (highByte w) (lowByte w) = w := by
  apply BitVec.eq_of_getLsbD_eq
  intro i hi
  show ((highByte w) ++ (lowByte w)).getLsbD i = _
  rw [BitVec.getLsbD_append]
  simp only [highByte, lowByte, BitVec.getLsbD_extractLsb']
  split
  · simp [*]
  · rw [show 8 + (i - 8) = i by omega]
    simp; omega

theorem decode_wordBytes (w : Word) (rest : List Byte) :
    decode (wordBytes w ++ rest) =
      match decodeWord w with
      | .ok i => .ok (i, rest)
      | .error e => .error e := by
  show (match decodeWord (joinBytes (highByte w) (lowByte w)) with
    | .ok i => _
    | .error e => _) = _
  rw [joinBytes_wordBytes]
  rfl

end Sys2Proof
end

