-- ==== Sys2Proof/Laws/Framebuffer.lean ====
section
/-! SUPPORT. The laws of the framebuffer: a toggle flips its own pixel and no other (R142). -/

namespace Sys2Proof.Machine

@[simp] theorem Framebuffer.get_clear (x : Fin 64) (y : Fin 32) : Framebuffer.clear.get x y = false := by
  simp [Framebuffer.get, Framebuffer.clear]

theorem Framebuffer.get_toggle (fb : Framebuffer) (x x' : Fin 64) (y y' : Fin 32) :
    (fb.toggle x y).get x' y' = (fb.get x' y' ^^ decide (x' = x ∧ y' = y)) := by
  unfold Framebuffer.get Framebuffer.toggle
  by_cases hy : y' = y
  · subst hy
    by_cases hx : x' = x
    · subst hx; simp
    · have : (x' : Nat) ≠ x := fun h => hx (Fin.ext h)
      simp [hx, this]
  · have : (y : Nat) ≠ y' := fun h => hy (Fin.ext h.symm)
    simp [hy, Vector.getElem_set_ne, this]

/-- Two framebuffers that show the same pixels are the same data. -/
theorem Framebuffer.ext_get {a b : Framebuffer} (h : ∀ x y, a.get x y = b.get x y) : a = b := by
  apply Vector.ext
  intro i hi
  apply BitVec.eq_of_getLsbD_eq
  intro j hj
  exact h ⟨j, hj⟩ ⟨i, hi⟩

end Sys2Proof.Machine
end

