-- ==== Sys2Proof/Laws/Memory.lean ====
section
/-! SUPPORT. The laws of main memory: a read after a write, and that every operation keeps the canonical form (log 6). -/

namespace Sys2Proof.Machine

theorem Memory.read_insert (m : Memory) (a k : Nat) (b : Byte) :
    (m.insert a b).read k = if k = a then b else m.read k := by
  induction m with
  | nil => simp [Memory.insert, Memory.read]
  | cons cell m ih =>
    obtain ⟨j, c⟩ := cell
    simp only [Memory.insert]
    split
    · simp [Memory.read]
    · split
      · rename_i h; subst h
        by_cases hk : k = a <;> simp [Memory.read, hk]
      · rename_i h1 h2
        by_cases hk : k = a
        · subst hk; simp [Memory.read, ih, h2]
        · simp [Memory.read, ih, hk]

theorem Memory.read_erase (m : Memory) (a k : Nat) :
    (m.erase a).read k = if k = a then Memory.background a else m.read k := by
  induction m with
  | nil =>
    simp only [Memory.erase, List.filter_nil, Memory.read]
    split
    · rename_i h; rw [h]
    · rfl
  | cons cell m ih =>
    obtain ⟨j, c⟩ := cell
    simp only [Memory.erase] at ih ⊢
    by_cases hj : j = a
    · subst hj
      rw [List.filter_cons_of_neg (by simp), ih]
      by_cases hk : k = j <;> simp [Memory.read, hk]
    · rw [List.filter_cons_of_pos (by simpa using hj)]
      by_cases hk : k = j
      · subst hk; simp [Memory.read, hj]
      · simp [Memory.read, hk, ih]

/-- A read returns the byte last written there, and a write leaves every other address alone (R46, R49). -/
theorem Memory.read_write (m : Memory) (a k : Nat) (b : Byte) :
    (m.write a b).read k = if k = a then b else m.read k := by
  unfold Memory.write
  split
  · rename_i h; rw [Memory.read_erase, h]
  · rw [Memory.read_insert]

theorem Memory.read_writeBytes (m : Memory) (a k : Nat) (bs : List Byte) :
    (m.writeBytes a bs).read k = if a ≤ k ∧ k < a + bs.length then bs.getD (k - a) 0 else m.read k := by
  induction bs generalizing m a with
  | nil => simp [Memory.writeBytes]
  | cons b bs ih =>
    rw [Memory.writeBytes, ih, Memory.read_write]
    by_cases hk : k = a
    · subst hk; simp
    · by_cases h : a + 1 ≤ k ∧ k < a + 1 + bs.length
      · obtain ⟨d, rfl⟩ : ∃ d, k = a + 1 + d := ⟨k - (a + 1), by omega⟩
        have hd : a + 1 + d - a = d + 1 := by omega
        rw [if_pos h, if_pos (by simp; omega), hd]
        simp
      · rw [if_neg h, if_neg hk, if_neg (by simp; omega)]

/-- Outside the stored bytes every address reads as before. -/
theorem Memory.read_writeBytes_outside (m : Memory) (a k : Nat) (bs : List Byte)
    (h : k < a ∨ a + bs.length ≤ k) : (m.writeBytes a bs).read k = m.read k := by
  rw [Memory.read_writeBytes, if_neg (by omega)]

theorem Memory.wfFrom_mono {lo hi : Nat} {m : Memory} (h : lo ≤ hi) (hm : Memory.wfFrom hi m = true) :
    Memory.wfFrom lo m = true := by
  cases m with
  | nil => rfl
  | cons cell m =>
    obtain ⟨k, b⟩ := cell
    simp only [Memory.wfFrom, Bool.and_eq_true, decide_eq_true_eq] at hm ⊢
    exact ⟨⟨⟨by omega, hm.1.1.2⟩, hm.1.2⟩, hm.2⟩

theorem Memory.wfFrom_insert {lo a : Nat} {b : Byte} {m : Memory} (hm : Memory.wfFrom lo m = true)
    (hlo : lo ≤ a) (ha : a < memSize) (hb : b ≠ Memory.background a) :
    Memory.wfFrom lo (m.insert a b) = true := by
  induction m generalizing lo with
  | nil => simp [Memory.insert, Memory.wfFrom, hlo, ha, hb]
  | cons cell m ih =>
    obtain ⟨k, c⟩ := cell
    simp only [Memory.wfFrom, Bool.and_eq_true, decide_eq_true_eq] at hm
    obtain ⟨⟨⟨h1, h2⟩, h3⟩, h4⟩ := hm
    simp only [Memory.insert]
    split
    · rename_i h
      simp only [Memory.wfFrom, Bool.and_eq_true, decide_eq_true_eq]
      exact ⟨⟨⟨hlo, ha⟩, hb⟩, ⟨⟨by omega, h2⟩, h3⟩, h4⟩
    · split
      · rename_i h; subst h
        simp only [Memory.wfFrom, Bool.and_eq_true, decide_eq_true_eq]
        exact ⟨⟨⟨hlo, ha⟩, hb⟩, h4⟩
      · simp only [Memory.wfFrom, Bool.and_eq_true, decide_eq_true_eq]
        exact ⟨⟨⟨h1, h2⟩, h3⟩, ih h4 (by omega)⟩

theorem Memory.wfFrom_erase {lo a : Nat} {m : Memory} (hm : Memory.wfFrom lo m = true) :
    Memory.wfFrom lo (m.erase a) = true := by
  induction m generalizing lo with
  | nil => rfl
  | cons cell m ih =>
    obtain ⟨k, c⟩ := cell
    simp only [Memory.wfFrom, Bool.and_eq_true, decide_eq_true_eq] at hm
    obtain ⟨⟨⟨h1, h2⟩, h3⟩, h4⟩ := hm
    simp only [Memory.erase] at ih ⊢
    by_cases hk : k = a
    · rw [List.filter_cons_of_neg (by simpa using hk)]
      exact Memory.wfFrom_mono (by omega) (ih h4)
    · rw [List.filter_cons_of_pos (by simpa using hk)]
      simp only [Memory.wfFrom, Bool.and_eq_true, decide_eq_true_eq]
      exact ⟨⟨⟨h1, h2⟩, h3⟩, ih h4⟩

/-- A store inside memory keeps the canonical form. -/
theorem Memory.wf_write {m : Memory} {a : Nat} {b : Byte} (hm : m.wf = true) (ha : a < memSize) :
    (m.write a b).wf = true := by
  unfold Memory.write Memory.wf
  split
  · exact Memory.wfFrom_erase hm
  · rename_i h; exact Memory.wfFrom_insert hm (Nat.zero_le _) ha h

theorem Memory.wf_writeBytes {m : Memory} {a : Nat} {bs : List Byte} (hm : m.wf = true)
    (ha : a + bs.length ≤ memSize) : (m.writeBytes a bs).wf = true := by
  induction bs generalizing m a with
  | nil => exact hm
  | cons b bs ih =>
    simp only [List.length_cons] at ha
    exact ih (Memory.wf_write hm (by omega)) (by omega)

/-- The memory of the reset state has the canonical form. -/
theorem Memory.wf_reset : State.reset.mem.wf = true := rfl

@[simp] theorem Memory.length_readBytes (m : Memory) (a n : Nat) : (m.readBytes a n).length = n := by
  simp [Memory.readBytes]

@[simp] theorem Memory.getElem?_readBytes (m : Memory) (a n k : Nat) :
    (m.readBytes a n)[k]? = if k < n then some (m.read (a + k)) else none := by
  simp only [Memory.readBytes, List.getElem?_map]
  split <;> simp_all

/-! ### The range check (R41, R120) -/

theorem firstOutOfRange_of_fits {base len : Nat} (h : len = 0 ∨ base + len ≤ memSize) :
    firstOutOfRange base len = none := by
  unfold firstOutOfRange; rw [if_neg]; omega

theorem firstOutOfRange_of_exceeds {base len : Nat} (h0 : len ≠ 0) (h : memSize < base + len) :
    firstOutOfRange base len = some (max base memSize) := by
  unfold firstOutOfRange; rw [if_pos ⟨h0, h⟩]

end Sys2Proof.Machine
end

