-- ==== Sys2Proof/Laws/State.lean ====
section
/-! SUPPORT. One lemma per field per update of the state, so that no later proof unfolds a record update. -/

namespace Sys2Proof.Machine

variable (s : State)

/-! ### `State.setV` -/

@[simp] theorem State.setV_v (x : Reg) (b : Byte) : (s.setV x b).v = s.v.set x b := rfl
@[simp] theorem State.setV_i (x : Reg) (b : Byte) : (s.setV x b).i = s.i := rfl
@[simp] theorem State.setV_pc (x : Reg) (b : Byte) : (s.setV x b).pc = s.pc := rfl
@[simp] theorem State.setV_stack (x : Reg) (b : Byte) : (s.setV x b).stack = s.stack := rfl
@[simp] theorem State.setV_sp (x : Reg) (b : Byte) : (s.setV x b).sp = s.sp := rfl
@[simp] theorem State.setV_dt (x : Reg) (b : Byte) : (s.setV x b).dt = s.dt := rfl
@[simp] theorem State.setV_st (x : Reg) (b : Byte) : (s.setV x b).st = s.st := rfl
@[simp] theorem State.setV_keys (x : Reg) (b : Byte) : (s.setV x b).keys = s.keys := rfl
@[simp] theorem State.setV_fb (x : Reg) (b : Byte) : (s.setV x b).fb = s.fb := rfl
@[simp] theorem State.setV_mem (x : Reg) (b : Byte) : (s.setV x b).mem = s.mem := rfl
@[simp] theorem State.setV_fault (x : Reg) (b : Byte) : (s.setV x b).fault = s.fault := rfl
@[simp] theorem State.setV_finfo (x : Reg) (b : Byte) : (s.setV x b).finfo = s.finfo := rfl
@[simp] theorem State.setV_redraw (x : Reg) (b : Byte) : (s.setV x b).redraw = s.redraw := rfl
@[simp] theorem State.setV_draws (x : Reg) (b : Byte) : (s.setV x b).draws = s.draws := rfl

/-! ### `State.setI` -/

@[simp] theorem State.setI_v (w : Word) : (s.setI w).v = s.v := rfl
@[simp] theorem State.setI_i (w : Word) : (s.setI w).i = w := rfl
@[simp] theorem State.setI_pc (w : Word) : (s.setI w).pc = s.pc := rfl
@[simp] theorem State.setI_stack (w : Word) : (s.setI w).stack = s.stack := rfl
@[simp] theorem State.setI_sp (w : Word) : (s.setI w).sp = s.sp := rfl
@[simp] theorem State.setI_dt (w : Word) : (s.setI w).dt = s.dt := rfl
@[simp] theorem State.setI_st (w : Word) : (s.setI w).st = s.st := rfl
@[simp] theorem State.setI_keys (w : Word) : (s.setI w).keys = s.keys := rfl
@[simp] theorem State.setI_fb (w : Word) : (s.setI w).fb = s.fb := rfl
@[simp] theorem State.setI_mem (w : Word) : (s.setI w).mem = s.mem := rfl
@[simp] theorem State.setI_fault (w : Word) : (s.setI w).fault = s.fault := rfl
@[simp] theorem State.setI_finfo (w : Word) : (s.setI w).finfo = s.finfo := rfl
@[simp] theorem State.setI_redraw (w : Word) : (s.setI w).redraw = s.redraw := rfl
@[simp] theorem State.setI_draws (w : Word) : (s.setI w).draws = s.draws := rfl

/-! ### `State.setDt` -/

@[simp] theorem State.setDt_v (b : Byte) : (s.setDt b).v = s.v := rfl
@[simp] theorem State.setDt_i (b : Byte) : (s.setDt b).i = s.i := rfl
@[simp] theorem State.setDt_pc (b : Byte) : (s.setDt b).pc = s.pc := rfl
@[simp] theorem State.setDt_stack (b : Byte) : (s.setDt b).stack = s.stack := rfl
@[simp] theorem State.setDt_sp (b : Byte) : (s.setDt b).sp = s.sp := rfl
@[simp] theorem State.setDt_dt (b : Byte) : (s.setDt b).dt = b := rfl
@[simp] theorem State.setDt_st (b : Byte) : (s.setDt b).st = s.st := rfl
@[simp] theorem State.setDt_keys (b : Byte) : (s.setDt b).keys = s.keys := rfl
@[simp] theorem State.setDt_fb (b : Byte) : (s.setDt b).fb = s.fb := rfl
@[simp] theorem State.setDt_mem (b : Byte) : (s.setDt b).mem = s.mem := rfl
@[simp] theorem State.setDt_fault (b : Byte) : (s.setDt b).fault = s.fault := rfl
@[simp] theorem State.setDt_finfo (b : Byte) : (s.setDt b).finfo = s.finfo := rfl
@[simp] theorem State.setDt_redraw (b : Byte) : (s.setDt b).redraw = s.redraw := rfl
@[simp] theorem State.setDt_draws (b : Byte) : (s.setDt b).draws = s.draws := rfl

/-! ### `State.setSt` -/

@[simp] theorem State.setSt_v (b : Byte) : (s.setSt b).v = s.v := rfl
@[simp] theorem State.setSt_i (b : Byte) : (s.setSt b).i = s.i := rfl
@[simp] theorem State.setSt_pc (b : Byte) : (s.setSt b).pc = s.pc := rfl
@[simp] theorem State.setSt_stack (b : Byte) : (s.setSt b).stack = s.stack := rfl
@[simp] theorem State.setSt_sp (b : Byte) : (s.setSt b).sp = s.sp := rfl
@[simp] theorem State.setSt_dt (b : Byte) : (s.setSt b).dt = s.dt := rfl
@[simp] theorem State.setSt_st (b : Byte) : (s.setSt b).st = b := rfl
@[simp] theorem State.setSt_keys (b : Byte) : (s.setSt b).keys = s.keys := rfl
@[simp] theorem State.setSt_fb (b : Byte) : (s.setSt b).fb = s.fb := rfl
@[simp] theorem State.setSt_mem (b : Byte) : (s.setSt b).mem = s.mem := rfl
@[simp] theorem State.setSt_fault (b : Byte) : (s.setSt b).fault = s.fault := rfl
@[simp] theorem State.setSt_finfo (b : Byte) : (s.setSt b).finfo = s.finfo := rfl
@[simp] theorem State.setSt_redraw (b : Byte) : (s.setSt b).redraw = s.redraw := rfl
@[simp] theorem State.setSt_draws (b : Byte) : (s.setSt b).draws = s.draws := rfl

/-! ### `State.jump` -/

@[simp] theorem State.jump_v (w : Word) : (s.jump w).v = s.v := rfl
@[simp] theorem State.jump_i (w : Word) : (s.jump w).i = s.i := rfl
@[simp] theorem State.jump_pc (w : Word) : (s.jump w).pc = w := rfl
@[simp] theorem State.jump_stack (w : Word) : (s.jump w).stack = s.stack := rfl
@[simp] theorem State.jump_sp (w : Word) : (s.jump w).sp = s.sp := rfl
@[simp] theorem State.jump_dt (w : Word) : (s.jump w).dt = s.dt := rfl
@[simp] theorem State.jump_st (w : Word) : (s.jump w).st = s.st := rfl
@[simp] theorem State.jump_keys (w : Word) : (s.jump w).keys = s.keys := rfl
@[simp] theorem State.jump_fb (w : Word) : (s.jump w).fb = s.fb := rfl
@[simp] theorem State.jump_mem (w : Word) : (s.jump w).mem = s.mem := rfl
@[simp] theorem State.jump_fault (w : Word) : (s.jump w).fault = s.fault := rfl
@[simp] theorem State.jump_finfo (w : Word) : (s.jump w).finfo = s.finfo := rfl
@[simp] theorem State.jump_redraw (w : Word) : (s.jump w).redraw = s.redraw := rfl
@[simp] theorem State.jump_draws (w : Word) : (s.jump w).draws = s.draws := rfl

/-! ### `State.advance` -/

@[simp] theorem State.advance_v : (s.advance).v = s.v := rfl
@[simp] theorem State.advance_i : (s.advance).i = s.i := rfl
@[simp] theorem State.advance_pc : (s.advance).pc = s.pc + 2 := rfl
@[simp] theorem State.advance_stack : (s.advance).stack = s.stack := rfl
@[simp] theorem State.advance_sp : (s.advance).sp = s.sp := rfl
@[simp] theorem State.advance_dt : (s.advance).dt = s.dt := rfl
@[simp] theorem State.advance_st : (s.advance).st = s.st := rfl
@[simp] theorem State.advance_keys : (s.advance).keys = s.keys := rfl
@[simp] theorem State.advance_fb : (s.advance).fb = s.fb := rfl
@[simp] theorem State.advance_mem : (s.advance).mem = s.mem := rfl
@[simp] theorem State.advance_fault : (s.advance).fault = s.fault := rfl
@[simp] theorem State.advance_finfo : (s.advance).finfo = s.finfo := rfl
@[simp] theorem State.advance_redraw : (s.advance).redraw = s.redraw := rfl
@[simp] theorem State.advance_draws : (s.advance).draws = s.draws := rfl

/-! ### `State.skipIf` -/

@[simp] theorem State.skipIf_v (c : Bool) : (s.skipIf c).v = s.v := rfl
@[simp] theorem State.skipIf_i (c : Bool) : (s.skipIf c).i = s.i := rfl
@[simp] theorem State.skipIf_pc (c : Bool) : (s.skipIf c).pc = if c then s.pc + 4 else s.pc + 2 := rfl
@[simp] theorem State.skipIf_stack (c : Bool) : (s.skipIf c).stack = s.stack := rfl
@[simp] theorem State.skipIf_sp (c : Bool) : (s.skipIf c).sp = s.sp := rfl
@[simp] theorem State.skipIf_dt (c : Bool) : (s.skipIf c).dt = s.dt := rfl
@[simp] theorem State.skipIf_st (c : Bool) : (s.skipIf c).st = s.st := rfl
@[simp] theorem State.skipIf_keys (c : Bool) : (s.skipIf c).keys = s.keys := rfl
@[simp] theorem State.skipIf_fb (c : Bool) : (s.skipIf c).fb = s.fb := rfl
@[simp] theorem State.skipIf_mem (c : Bool) : (s.skipIf c).mem = s.mem := rfl
@[simp] theorem State.skipIf_fault (c : Bool) : (s.skipIf c).fault = s.fault := rfl
@[simp] theorem State.skipIf_finfo (c : Bool) : (s.skipIf c).finfo = s.finfo := rfl
@[simp] theorem State.skipIf_redraw (c : Bool) : (s.skipIf c).redraw = s.redraw := rfl
@[simp] theorem State.skipIf_draws (c : Bool) : (s.skipIf c).draws = s.draws := rfl

/-! ### `State.raise` -/

@[simp] theorem State.raise_v (f : FaultCode) (w : Word) : (s.raise f w).v = s.v := rfl
@[simp] theorem State.raise_i (f : FaultCode) (w : Word) : (s.raise f w).i = s.i := rfl
@[simp] theorem State.raise_pc (f : FaultCode) (w : Word) : (s.raise f w).pc = s.pc := rfl
@[simp] theorem State.raise_stack (f : FaultCode) (w : Word) : (s.raise f w).stack = s.stack := rfl
@[simp] theorem State.raise_sp (f : FaultCode) (w : Word) : (s.raise f w).sp = s.sp := rfl
@[simp] theorem State.raise_dt (f : FaultCode) (w : Word) : (s.raise f w).dt = s.dt := rfl
@[simp] theorem State.raise_st (f : FaultCode) (w : Word) : (s.raise f w).st = s.st := rfl
@[simp] theorem State.raise_keys (f : FaultCode) (w : Word) : (s.raise f w).keys = s.keys := rfl
@[simp] theorem State.raise_fb (f : FaultCode) (w : Word) : (s.raise f w).fb = s.fb := rfl
@[simp] theorem State.raise_mem (f : FaultCode) (w : Word) : (s.raise f w).mem = s.mem := rfl
@[simp] theorem State.raise_fault (f : FaultCode) (w : Word) : (s.raise f w).fault = f := rfl
@[simp] theorem State.raise_finfo (f : FaultCode) (w : Word) : (s.raise f w).finfo = w := rfl
@[simp] theorem State.raise_redraw (f : FaultCode) (w : Word) : (s.raise f w).redraw = false := rfl
@[simp] theorem State.raise_draws (f : FaultCode) (w : Word) : (s.raise f w).draws = s.draws := rfl

/-! ### `State.store` -/

@[simp] theorem State.store_v (a : Nat) (bs : List Byte) : (s.store a bs).v = s.v := rfl
@[simp] theorem State.store_i (a : Nat) (bs : List Byte) : (s.store a bs).i = s.i := rfl
@[simp] theorem State.store_pc (a : Nat) (bs : List Byte) : (s.store a bs).pc = s.pc := rfl
@[simp] theorem State.store_stack (a : Nat) (bs : List Byte) : (s.store a bs).stack = s.stack := rfl
@[simp] theorem State.store_sp (a : Nat) (bs : List Byte) : (s.store a bs).sp = s.sp := rfl
@[simp] theorem State.store_dt (a : Nat) (bs : List Byte) : (s.store a bs).dt = s.dt := rfl
@[simp] theorem State.store_st (a : Nat) (bs : List Byte) : (s.store a bs).st = s.st := rfl
@[simp] theorem State.store_keys (a : Nat) (bs : List Byte) : (s.store a bs).keys = s.keys := rfl
@[simp] theorem State.store_fb (a : Nat) (bs : List Byte) : (s.store a bs).fb = s.fb := rfl
@[simp] theorem State.store_mem (a : Nat) (bs : List Byte) : (s.store a bs).mem = s.mem.writeBytes a bs := rfl
@[simp] theorem State.store_fault (a : Nat) (bs : List Byte) : (s.store a bs).fault = s.fault := rfl
@[simp] theorem State.store_finfo (a : Nat) (bs : List Byte) : (s.store a bs).finfo = s.finfo := rfl
@[simp] theorem State.store_redraw (a : Nat) (bs : List Byte) : (s.store a bs).redraw = s.redraw := rfl
@[simp] theorem State.store_draws (a : Nat) (bs : List Byte) : (s.store a bs).draws = s.draws := rfl

/-! ### `State.show` -/

@[simp] theorem State.show_v (fb : Framebuffer) : (s.show fb).v = s.v := rfl
@[simp] theorem State.show_i (fb : Framebuffer) : (s.show fb).i = s.i := rfl
@[simp] theorem State.show_pc (fb : Framebuffer) : (s.show fb).pc = s.pc := rfl
@[simp] theorem State.show_stack (fb : Framebuffer) : (s.show fb).stack = s.stack := rfl
@[simp] theorem State.show_sp (fb : Framebuffer) : (s.show fb).sp = s.sp := rfl
@[simp] theorem State.show_dt (fb : Framebuffer) : (s.show fb).dt = s.dt := rfl
@[simp] theorem State.show_st (fb : Framebuffer) : (s.show fb).st = s.st := rfl
@[simp] theorem State.show_keys (fb : Framebuffer) : (s.show fb).keys = s.keys := rfl
@[simp] theorem State.show_fb (fb : Framebuffer) : (s.show fb).fb = fb := rfl
@[simp] theorem State.show_mem (fb : Framebuffer) : (s.show fb).mem = s.mem := rfl
@[simp] theorem State.show_fault (fb : Framebuffer) : (s.show fb).fault = s.fault := rfl
@[simp] theorem State.show_finfo (fb : Framebuffer) : (s.show fb).finfo = s.finfo := rfl
@[simp] theorem State.show_redraw (fb : Framebuffer) : (s.show fb).redraw = true := rfl
@[simp] theorem State.show_draws (fb : Framebuffer) : (s.show fb).draws = s.draws := rfl

/-! ### `State.loadRegs` -/

@[simp] theorem State.loadRegs_i (a : Nat) (x : Reg) : (s.loadRegs a x).i = s.i := rfl
@[simp] theorem State.loadRegs_pc (a : Nat) (x : Reg) : (s.loadRegs a x).pc = s.pc := rfl
@[simp] theorem State.loadRegs_stack (a : Nat) (x : Reg) : (s.loadRegs a x).stack = s.stack := rfl
@[simp] theorem State.loadRegs_sp (a : Nat) (x : Reg) : (s.loadRegs a x).sp = s.sp := rfl
@[simp] theorem State.loadRegs_dt (a : Nat) (x : Reg) : (s.loadRegs a x).dt = s.dt := rfl
@[simp] theorem State.loadRegs_st (a : Nat) (x : Reg) : (s.loadRegs a x).st = s.st := rfl
@[simp] theorem State.loadRegs_keys (a : Nat) (x : Reg) : (s.loadRegs a x).keys = s.keys := rfl
@[simp] theorem State.loadRegs_fb (a : Nat) (x : Reg) : (s.loadRegs a x).fb = s.fb := rfl
@[simp] theorem State.loadRegs_mem (a : Nat) (x : Reg) : (s.loadRegs a x).mem = s.mem := rfl
@[simp] theorem State.loadRegs_fault (a : Nat) (x : Reg) : (s.loadRegs a x).fault = s.fault := rfl
@[simp] theorem State.loadRegs_finfo (a : Nat) (x : Reg) : (s.loadRegs a x).finfo = s.finfo := rfl
@[simp] theorem State.loadRegs_redraw (a : Nat) (x : Reg) : (s.loadRegs a x).redraw = s.redraw := rfl
@[simp] theorem State.loadRegs_draws (a : Nat) (x : Reg) : (s.loadRegs a x).draws = s.draws := rfl

/-! ### `State.setFlag` -/

@[simp] theorem State.setFlag_i (b : Bool) : (s.setFlag b).i = s.i := rfl
@[simp] theorem State.setFlag_pc (b : Bool) : (s.setFlag b).pc = s.pc := rfl
@[simp] theorem State.setFlag_stack (b : Bool) : (s.setFlag b).stack = s.stack := rfl
@[simp] theorem State.setFlag_sp (b : Bool) : (s.setFlag b).sp = s.sp := rfl
@[simp] theorem State.setFlag_dt (b : Bool) : (s.setFlag b).dt = s.dt := rfl
@[simp] theorem State.setFlag_st (b : Bool) : (s.setFlag b).st = s.st := rfl
@[simp] theorem State.setFlag_keys (b : Bool) : (s.setFlag b).keys = s.keys := rfl
@[simp] theorem State.setFlag_fb (b : Bool) : (s.setFlag b).fb = s.fb := rfl
@[simp] theorem State.setFlag_mem (b : Bool) : (s.setFlag b).mem = s.mem := rfl
@[simp] theorem State.setFlag_fault (b : Bool) : (s.setFlag b).fault = s.fault := rfl
@[simp] theorem State.setFlag_finfo (b : Bool) : (s.setFlag b).finfo = s.finfo := rfl
@[simp] theorem State.setFlag_redraw (b : Bool) : (s.setFlag b).redraw = s.redraw := rfl
@[simp] theorem State.setFlag_draws (b : Bool) : (s.setFlag b).draws = s.draws := rfl

/-! ### `State.setResultAndFlag` -/

@[simp] theorem State.setResultAndFlag_i (x : Reg) (b : Byte) (f : Bool) : (s.setResultAndFlag x b f).i = s.i := rfl
@[simp] theorem State.setResultAndFlag_pc (x : Reg) (b : Byte) (f : Bool) : (s.setResultAndFlag x b f).pc = s.pc := rfl
@[simp] theorem State.setResultAndFlag_stack (x : Reg) (b : Byte) (f : Bool) : (s.setResultAndFlag x b f).stack = s.stack := rfl
@[simp] theorem State.setResultAndFlag_sp (x : Reg) (b : Byte) (f : Bool) : (s.setResultAndFlag x b f).sp = s.sp := rfl
@[simp] theorem State.setResultAndFlag_dt (x : Reg) (b : Byte) (f : Bool) : (s.setResultAndFlag x b f).dt = s.dt := rfl
@[simp] theorem State.setResultAndFlag_st (x : Reg) (b : Byte) (f : Bool) : (s.setResultAndFlag x b f).st = s.st := rfl
@[simp] theorem State.setResultAndFlag_keys (x : Reg) (b : Byte) (f : Bool) : (s.setResultAndFlag x b f).keys = s.keys := rfl
@[simp] theorem State.setResultAndFlag_fb (x : Reg) (b : Byte) (f : Bool) : (s.setResultAndFlag x b f).fb = s.fb := rfl
@[simp] theorem State.setResultAndFlag_mem (x : Reg) (b : Byte) (f : Bool) : (s.setResultAndFlag x b f).mem = s.mem := rfl
@[simp] theorem State.setResultAndFlag_fault (x : Reg) (b : Byte) (f : Bool) : (s.setResultAndFlag x b f).fault = s.fault := rfl
@[simp] theorem State.setResultAndFlag_finfo (x : Reg) (b : Byte) (f : Bool) : (s.setResultAndFlag x b f).finfo = s.finfo := rfl
@[simp] theorem State.setResultAndFlag_redraw (x : Reg) (b : Byte) (f : Bool) : (s.setResultAndFlag x b f).redraw = s.redraw := rfl
@[simp] theorem State.setResultAndFlag_draws (x : Reg) (b : Byte) (f : Bool) : (s.setResultAndFlag x b f).draws = s.draws := rfl

/-! ### `State.beginStep` -/

@[simp] theorem State.beginStep_v : (s.beginStep).v = s.v := rfl
@[simp] theorem State.beginStep_i : (s.beginStep).i = s.i := rfl
@[simp] theorem State.beginStep_pc : (s.beginStep).pc = s.pc := rfl
@[simp] theorem State.beginStep_stack : (s.beginStep).stack = s.stack := rfl
@[simp] theorem State.beginStep_sp : (s.beginStep).sp = s.sp := rfl
@[simp] theorem State.beginStep_dt : (s.beginStep).dt = s.dt := rfl
@[simp] theorem State.beginStep_st : (s.beginStep).st = s.st := rfl
@[simp] theorem State.beginStep_keys : (s.beginStep).keys = s.keys := rfl
@[simp] theorem State.beginStep_fb : (s.beginStep).fb = s.fb := rfl
@[simp] theorem State.beginStep_mem : (s.beginStep).mem = s.mem := rfl
@[simp] theorem State.beginStep_fault : (s.beginStep).fault = s.fault := rfl
@[simp] theorem State.beginStep_finfo : (s.beginStep).finfo = s.finfo := rfl
@[simp] theorem State.beginStep_redraw : (s.beginStep).redraw = false := rfl
@[simp] theorem State.beginStep_draws : (s.beginStep).draws = s.draws := rfl

end Sys2Proof.Machine
end

