-- ==== Sys2Proof/Laws/Ops.lean ====
section
/-! SUPPORT. What each shared operation can do, said once; proofs cite these and do not unfold the operation. -/

namespace Sys2Proof.Machine

/-! ### Registers -/

@[simp] theorem State.readV_setV (s : State) (x r : Reg) (b : Byte) :
    (s.setV x b).readV r = if r = x then b else s.readV r := by
  unfold State.readV State.setV
  by_cases h : r = x
  · subst h; simp
  · have : (x : Nat) ≠ r := fun e => h (Fin.ext e.symm)
    simp [h, Vector.getElem_set_ne, this]

@[simp] theorem State.readV_setFlag (s : State) (r : Reg) (f : Bool) :
    (s.setFlag f).readV r = if r = VF then flagByte f else s.readV r := by
  unfold State.setFlag; rw [State.readV_setV]

/-- Result first, flag last: `V[15]` is the flag whatever `x` is (R112). -/
@[simp] theorem State.readV_setResultAndFlag (s : State) (x r : Reg) (b : Byte) (f : Bool) :
    (s.setResultAndFlag x b f).readV r = if r = VF then flagByte f else if r = x then b else s.readV r := by
  unfold State.setResultAndFlag; rw [State.readV_setFlag, State.readV_setV]

@[simp] theorem State.readV_loadRegs (s : State) (a : Nat) (x r : Reg) :
    (s.loadRegs a x).readV r = if r ≤ x then s.mem.read (a + r.val) else s.readV r := by
  unfold State.readV State.loadRegs
  simp

/-- A state whose registers are untouched reads them as before. -/
theorem State.readV_of_v_eq {s t : State} (h : t.v = s.v) (r : Reg) : t.readV r = s.readV r := by
  unfold State.readV; rw [h]

@[simp] theorem State.length_regsUpTo (s : State) (x : Reg) : (s.regsUpTo x).length = x.val + 1 := by
  simp [State.regsUpTo]

@[simp] theorem State.getD_regsUpTo (s : State) (x k : Reg) (h : k ≤ x) :
    (s.regsUpTo x).getD k.val 0 = s.readV k := by
  have hk : k.val < x.val + 1 := by have : k.val ≤ x.val := h; omega
  simp [State.regsUpTo, State.readV, hk]

/-! ### The range check of a memory instruction -/

theorem State.guardRange_of_fits {s t : State} {len : Nat}
    (h : len = 0 ∨ s.i.toNat + len ≤ memSize) : s.guardRange len t = t := by
  unfold State.guardRange; rw [firstOutOfRange_of_fits h]

theorem State.guardRange_of_exceeds {s t : State} {len : Nat} (h0 : len ≠ 0)
    (h : memSize < s.i.toNat + len) :
    s.guardRange len t = s.raise .addressOutOfRange (BitVec.ofNat 16 (max s.i.toNat memSize)) := by
  unfold State.guardRange; rw [firstOutOfRange_of_exceeds h0 h]

/-! ### The call stack -/

theorem State.pushAndJump_of_room {s : State} (ret target : Word) (h : s.sp.val < 16) :
    s.pushAndJump ret target =
      { s with stack := s.stack.set s.sp.val ret, sp := ⟨s.sp.val + 1, by omega⟩, pc := target } := by
  unfold State.pushAndJump; rw [dif_pos h]

theorem State.pushAndJump_of_full {s : State} (ret target : Word) (h : s.sp.val = 16) :
    s.pushAndJump ret target = s.raise .stackOverflow s.pc := by
  unfold State.pushAndJump; rw [dif_neg (by omega)]

theorem State.popPc_of_used {s : State} (h : s.sp.val ≠ 0) :
    s.popPc = { s with sp := ⟨s.sp.val - 1, by omega⟩, pc := s.stack[s.sp.val - 1] } := by
  unfold State.popPc; rw [dif_neg h]

theorem State.popPc_of_empty {s : State} (h : s.sp.val = 0) : s.popPc = s.raise .stackUnderflow s.pc := by
  unfold State.popPc; rw [dif_pos h]

/-! ### Fetch (R43) -/

theorem State.fetch_of_inside {s : State} (h : s.pc.toNat + 1 < memSize) :
    s.fetch = .ok (joinBytes (s.mem.read s.pc.toNat) (s.mem.read (s.pc.toNat + 1))) := by
  unfold State.fetch; rw [firstOutOfRange_of_fits (Or.inr (by omega))]

theorem State.fetch_of_outside {s : State} (h : memSize ≤ s.pc.toNat + 1) :
    s.fetch = .error (max s.pc.toNat memSize) := by
  unfold State.fetch; rw [firstOutOfRange_of_exceeds (by omega) (by omega)]

/-! ### The least key down (R163) -/

theorem lowestKey_eq_some {keys : Word} {k : Nat} (h : lowestKey keys = some k) :
    k < 16 ∧ keys.getLsbD k = true ∧ ∀ j < k, keys.getLsbD j = false := by
  unfold lowestKey at h
  obtain ⟨hk, i, hi, rfl, hlt⟩ := List.find?_eq_some_iff_getElem.mp h
  simp only [List.length_range] at hi
  refine ⟨by simpa using hi, hk, fun j hj => ?_⟩
  have := hlt j (by simpa using hj)
  simpa using this

theorem lowestKey_eq_none {keys : Word} (h : lowestKey keys = none) : keys = 0 := by
  unfold lowestKey at h
  rw [List.find?_eq_none] at h
  apply BitVec.eq_of_getLsbD_eq
  intro i hi
  simpa using h i (List.mem_range.mpr hi)

end Sys2Proof.Machine
end

