-- ==== Sys2Proof/Laws/PerInstr.lean ====
section
/-! SUPPORT. The per-instruction family EncodeMatchesRow: the word of an instruction is a word of its own row of spec/30_encoding.md R64, one lemma per constructor. -/

namespace Sys2Proof.Laws.EncodeMatchesRow

open Sys2Proof

/-- The mask and the match of the instruction's row, copied from R64's columns. -/
def maskMatch : Instr → Word × Word
  | .cls => (0xFFFF, 0x00E0)
  | .ret => (0xFFFF, 0x00EE)
  | .sys _ => (0xF000, 0x0000)
  | .jp _ => (0xF000, 0x1000)
  | .call _ => (0xF000, 0x2000)
  | .seImm _ _ => (0xF000, 0x3000)
  | .sneImm _ _ => (0xF000, 0x4000)
  | .seReg _ _ => (0xF00F, 0x5000)
  | .ldImm _ _ => (0xF000, 0x6000)
  | .addImm _ _ => (0xF000, 0x7000)
  | .ldReg _ _ => (0xF00F, 0x8000)
  | .orReg _ _ => (0xF00F, 0x8001)
  | .andReg _ _ => (0xF00F, 0x8002)
  | .xorReg _ _ => (0xF00F, 0x8003)
  | .addReg _ _ => (0xF00F, 0x8004)
  | .subReg _ _ => (0xF00F, 0x8005)
  | .shr _ _ => (0xF00F, 0x8006)
  | .subn _ _ => (0xF00F, 0x8007)
  | .shl _ _ => (0xF00F, 0x800E)
  | .sneReg _ _ => (0xF00F, 0x9000)
  | .ldI _ => (0xF000, 0xA000)
  | .jpV0 _ => (0xF000, 0xB000)
  | .rnd _ _ => (0xF000, 0xC000)
  | .drw _ _ _ => (0xF000, 0xD000)
  | .skp _ => (0xF0FF, 0xE09E)
  | .sknp _ => (0xF0FF, 0xE0A1)
  | .ldVxDt _ => (0xF0FF, 0xF007)
  | .ldVxK _ => (0xF0FF, 0xF00A)
  | .ldDt _ => (0xF0FF, 0xF015)
  | .ldSt _ => (0xF0FF, 0xF018)
  | .addI _ => (0xF0FF, 0xF01E)
  | .ldF _ => (0xF0FF, 0xF029)
  | .ldB _ => (0xF0FF, 0xF033)
  | .ldMemVx _ => (0xF0FF, 0xF055)
  | .ldVxMem _ => (0xF0FF, 0xF065)

/-- `word & mask = match` for the encoded word. -/
def Statement (i : Instr) : Prop := encodeWord i &&& (maskMatch i).1 = (maskMatch i).2

theorem cls : Statement .cls := rfl
theorem ret : Statement .ret := rfl
theorem sys (nnn : BitVec 12) : Statement (.sys nnn) := by
  have h : ∀ nnn : BitVec 12, encodeWord (.sys nnn) &&& 0xF000 = 0x0000 := by decide +kernel
  exact h nnn
theorem jp (nnn : BitVec 12) : Statement (.jp nnn) := by
  have h : ∀ nnn : BitVec 12, encodeWord (.jp nnn) &&& 0xF000 = 0x1000 := by decide +kernel
  exact h nnn
theorem call (nnn : BitVec 12) : Statement (.call nnn) := by
  have h : ∀ nnn : BitVec 12, encodeWord (.call nnn) &&& 0xF000 = 0x2000 := by decide +kernel
  exact h nnn
theorem seImm (x : Reg) (nn : Byte) : Statement (.seImm x nn) := by
  have h : ∀ x : Reg, ∀ nn : Byte, encodeWord (.seImm x nn) &&& 0xF000 = 0x3000 := by decide +kernel
  exact h x nn
theorem sneImm (x : Reg) (nn : Byte) : Statement (.sneImm x nn) := by
  have h : ∀ x : Reg, ∀ nn : Byte, encodeWord (.sneImm x nn) &&& 0xF000 = 0x4000 := by decide +kernel
  exact h x nn
theorem seReg (x y : Reg) : Statement (.seReg x y) := by
  have h : ∀ x y : Reg, encodeWord (.seReg x y) &&& 0xF00F = 0x5000 := by decide +kernel
  exact h x y
theorem ldImm (x : Reg) (nn : Byte) : Statement (.ldImm x nn) := by
  have h : ∀ x : Reg, ∀ nn : Byte, encodeWord (.ldImm x nn) &&& 0xF000 = 0x6000 := by decide +kernel
  exact h x nn
theorem addImm (x : Reg) (nn : Byte) : Statement (.addImm x nn) := by
  have h : ∀ x : Reg, ∀ nn : Byte, encodeWord (.addImm x nn) &&& 0xF000 = 0x7000 := by decide +kernel
  exact h x nn
theorem ldReg (x y : Reg) : Statement (.ldReg x y) := by
  have h : ∀ x y : Reg, encodeWord (.ldReg x y) &&& 0xF00F = 0x8000 := by decide +kernel
  exact h x y
theorem orReg (x y : Reg) : Statement (.orReg x y) := by
  have h : ∀ x y : Reg, encodeWord (.orReg x y) &&& 0xF00F = 0x8001 := by decide +kernel
  exact h x y
theorem andReg (x y : Reg) : Statement (.andReg x y) := by
  have h : ∀ x y : Reg, encodeWord (.andReg x y) &&& 0xF00F = 0x8002 := by decide +kernel
  exact h x y
theorem xorReg (x y : Reg) : Statement (.xorReg x y) := by
  have h : ∀ x y : Reg, encodeWord (.xorReg x y) &&& 0xF00F = 0x8003 := by decide +kernel
  exact h x y
theorem addReg (x y : Reg) : Statement (.addReg x y) := by
  have h : ∀ x y : Reg, encodeWord (.addReg x y) &&& 0xF00F = 0x8004 := by decide +kernel
  exact h x y
theorem subReg (x y : Reg) : Statement (.subReg x y) := by
  have h : ∀ x y : Reg, encodeWord (.subReg x y) &&& 0xF00F = 0x8005 := by decide +kernel
  exact h x y
theorem shr (x y : Reg) : Statement (.shr x y) := by
  have h : ∀ x y : Reg, encodeWord (.shr x y) &&& 0xF00F = 0x8006 := by decide +kernel
  exact h x y
theorem subn (x y : Reg) : Statement (.subn x y) := by
  have h : ∀ x y : Reg, encodeWord (.subn x y) &&& 0xF00F = 0x8007 := by decide +kernel
  exact h x y
theorem shl (x y : Reg) : Statement (.shl x y) := by
  have h : ∀ x y : Reg, encodeWord (.shl x y) &&& 0xF00F = 0x800E := by decide +kernel
  exact h x y
theorem sneReg (x y : Reg) : Statement (.sneReg x y) := by
  have h : ∀ x y : Reg, encodeWord (.sneReg x y) &&& 0xF00F = 0x9000 := by decide +kernel
  exact h x y
theorem ldI (nnn : BitVec 12) : Statement (.ldI nnn) := by
  have h : ∀ nnn : BitVec 12, encodeWord (.ldI nnn) &&& 0xF000 = 0xA000 := by decide +kernel
  exact h nnn
theorem jpV0 (nnn : BitVec 12) : Statement (.jpV0 nnn) := by
  have h : ∀ nnn : BitVec 12, encodeWord (.jpV0 nnn) &&& 0xF000 = 0xB000 := by decide +kernel
  exact h nnn
theorem rnd (x : Reg) (nn : Byte) : Statement (.rnd x nn) := by
  have h : ∀ x : Reg, ∀ nn : Byte, encodeWord (.rnd x nn) &&& 0xF000 = 0xC000 := by decide +kernel
  exact h x nn
theorem drw (x y : Reg) (n : Fin 16) : Statement (.drw x y n) := by
  have h : ∀ x y : Reg, ∀ n : Fin 16, encodeWord (.drw x y n) &&& 0xF000 = 0xD000 := by decide +kernel
  exact h x y n
theorem skp (x : Reg) : Statement (.skp x) := by
  have h : ∀ x : Reg, encodeWord (.skp x) &&& 0xF0FF = 0xE09E := by decide +kernel
  exact h x
theorem sknp (x : Reg) : Statement (.sknp x) := by
  have h : ∀ x : Reg, encodeWord (.sknp x) &&& 0xF0FF = 0xE0A1 := by decide +kernel
  exact h x
theorem ldVxDt (x : Reg) : Statement (.ldVxDt x) := by
  have h : ∀ x : Reg, encodeWord (.ldVxDt x) &&& 0xF0FF = 0xF007 := by decide +kernel
  exact h x
theorem ldVxK (x : Reg) : Statement (.ldVxK x) := by
  have h : ∀ x : Reg, encodeWord (.ldVxK x) &&& 0xF0FF = 0xF00A := by decide +kernel
  exact h x
theorem ldDt (x : Reg) : Statement (.ldDt x) := by
  have h : ∀ x : Reg, encodeWord (.ldDt x) &&& 0xF0FF = 0xF015 := by decide +kernel
  exact h x
theorem ldSt (x : Reg) : Statement (.ldSt x) := by
  have h : ∀ x : Reg, encodeWord (.ldSt x) &&& 0xF0FF = 0xF018 := by decide +kernel
  exact h x
theorem addI (x : Reg) : Statement (.addI x) := by
  have h : ∀ x : Reg, encodeWord (.addI x) &&& 0xF0FF = 0xF01E := by decide +kernel
  exact h x
theorem ldF (x : Reg) : Statement (.ldF x) := by
  have h : ∀ x : Reg, encodeWord (.ldF x) &&& 0xF0FF = 0xF029 := by decide +kernel
  exact h x
theorem ldB (x : Reg) : Statement (.ldB x) := by
  have h : ∀ x : Reg, encodeWord (.ldB x) &&& 0xF0FF = 0xF033 := by decide +kernel
  exact h x
theorem ldMemVx (x : Reg) : Statement (.ldMemVx x) := by
  have h : ∀ x : Reg, encodeWord (.ldMemVx x) &&& 0xF0FF = 0xF055 := by decide +kernel
  exact h x
theorem ldVxMem (x : Reg) : Statement (.ldVxMem x) := by
  have h : ∀ x : Reg, encodeWord (.ldVxMem x) &&& 0xF0FF = 0xF065 := by decide +kernel
  exact h x

end Sys2Proof.Laws.EncodeMatchesRow
end

