-- ==== Sys2Proof/Laws/Step.lean ====
section
/-! SUPPORT. What one STEP can do (spec/30_encoding.md R61), said once: the halted case, the two faults of fetch and decode, and the execution of the decoded instruction. -/

namespace Sys2Proof.Machine

theorem step_of_halted {s : State} (h : s.fault ≠ .none) : step s = .next s.beginStep := by
  unfold step; rw [if_neg h]

theorem step_of_fetch_error {s : State} {a : Nat} (h : s.fault = .none) (hf : s.fetch = .error a) :
    step s = .next (s.beginStep.raise .addressOutOfRange (BitVec.ofNat 16 a)) := by
  unfold step stepRunning; rw [if_pos h, show s.beginStep.fetch = s.fetch from rfl, hf]

theorem step_of_unknown {s : State} {w : Word} {e : DecodeError} (h : s.fault = .none)
    (hf : s.fetch = .ok w) (hd : decodeWord w = .error e) :
    step s = .next (s.beginStep.raise .unknownOpcode w) := by
  unfold step stepRunning; rw [if_pos h, show s.beginStep.fetch = s.fetch from rfl, hf]; simp only [hd]

theorem step_of_decoded {s : State} {w : Word} {i : Instr} (h : s.fault = .none)
    (hf : s.fetch = .ok w) (hd : decodeWord w = .ok i) : step s = exec i s.beginStep := by
  unfold step stepRunning; rw [if_pos h, show s.beginStep.fetch = s.fetch from rfl, hf]; simp only [hd]

/-- The inversion of `step`: one of the four cases holds. -/
theorem step_cases (s : State) :
    (s.fault ≠ .none ∧ step s = .next s.beginStep) ∨
    (s.fault = .none ∧ memSize ≤ s.pc.toNat + 1 ∧
      step s = .next (s.beginStep.raise .addressOutOfRange (BitVec.ofNat 16 (max s.pc.toNat memSize)))) ∨
    (∃ w e, s.fault = .none ∧ s.pc.toNat + 1 < memSize ∧ s.fetch = .ok w ∧ decodeWord w = .error e ∧
      step s = .next (s.beginStep.raise .unknownOpcode w)) ∨
    (∃ w i, s.fault = .none ∧ s.pc.toNat + 1 < memSize ∧ s.fetch = .ok w ∧ decodeWord w = .ok i ∧
      step s = exec i s.beginStep) := by
  by_cases h : s.fault = .none
  · by_cases hp : s.pc.toNat + 1 < memSize
    · have hf := State.fetch_of_inside hp
      cases hd : decodeWord (joinBytes (s.mem.read s.pc.toNat) (s.mem.read (s.pc.toNat + 1))) with
      | error e => exact .inr (.inr (.inl ⟨_, e, h, hp, hf, hd, step_of_unknown h hf hd⟩))
      | ok i => exact .inr (.inr (.inr ⟨_, i, h, hp, hf, hd, step_of_decoded h hf hd⟩))
    · have hp' : memSize ≤ s.pc.toNat + 1 := by omega
      exact .inr (.inl ⟨h, hp', step_of_fetch_error h (State.fetch_of_outside hp')⟩)
  · exact .inl ⟨h, step_of_halted h⟩

/-! ### Placing a word where the next STEP fetches it (log 8) -/

theorem fetchPlace_inside (s : State) : s.fetchPlace.toNat + 1 < memSize := by
  unfold State.fetchPlace
  split
  · assumption
  · decide

theorem fetch_withFetchWord (s : State) (nbits w : Nat) :
    (s.withFetchWord nbits w).fetch = .ok (tableWord nbits w) := by
  have hp := fetchPlace_inside s
  rw [State.fetch_of_inside (by exact hp)]
  congr 1
  rw [← joinBytes_wordBytes (tableWord nbits w)]
  congr 1 <;>
    simp [State.withFetchWord, Memory.read_writeBytes, wordBytes]

/-- The very next STEP runs exactly that instruction. -/
theorem step_withFetchWord (s : State) (nbits w : Nat) (i : Instr)
    (hd : decodeWord (tableWord nbits w) = .ok i) :
    step (s.withFetchWord nbits w) = exec i (s.withFetchWord nbits w).beginStep :=
  step_of_decoded rfl (fetch_withFetchWord s nbits w) hd

end Sys2Proof.Machine
end

