-- ==== Sys2Proof/Tests/Slice0.lean ====
section
/-! SUPPORT. The model's own tests. Expected values are those of spec/95_test_vectors.md (named in each docstring) or words written out from the patterns of spec/30_encoding.md R64. -/

namespace Sys2Proof.Tests

open Sys2Proof Sys2Proof.Machine

/-! ## Well-formedness: each check refuses an ill-formed term -/

/-- 0x00E0 is CLS, not SYS 0x0E0 (R81). -/
theorem test_wf_refuses_sys_cls : sysIsNotCls 0x0E0 = false ∧ (Instr.sys 0x0E0).wf = false := by decide

/-- 0x00EE is RET, not SYS 0x0EE (R81). -/
theorem test_wf_refuses_sys_ret : sysIsNotRet 0x0EE = false ∧ (Instr.sys 0x0EE).wf = false := by decide

theorem test_wf_accepts_sys : (Instr.sys 0x123).wf = true := by decide

/-! ## Decoding: every constructor by a word written out from R64's pattern -/

/-- Rows 1 to 7: 00E0, 00EE, 0nnn, 1nnn, 2nnn, 3xnn, 4xnn. -/
theorem test_decode_rows_1_to_7 :
    decodeWord 0b0000000011100000 = .ok .cls ∧
    decodeWord 0b0000000011101110 = .ok .ret ∧
    decodeWord 0b0000000100100011 = .ok (.sys 0x123) ∧
    decodeWord 0b0001001000000100 = .ok (.jp 0x204) ∧
    decodeWord 0b0010001000001110 = .ok (.call 0x20E) ∧
    decodeWord 0b0011001100101010 = .ok (.seImm 3 0x2A) ∧
    decodeWord 0b0100000000000001 = .ok (.sneImm 0 0x01) := by decide

/-- Rows 8 to 14: 5xy0, 6xnn, 7xnn, 8xy0 to 8xy3. -/
theorem test_decode_rows_8_to_14 :
    decodeWord 0b0101000100100000 = .ok (.seReg 1 2) ∧
    decodeWord 0b0110101011111111 = .ok (.ldImm 10 0xFF) ∧
    decodeWord 0b0111000000000101 = .ok (.addImm 0 0x05) ∧
    decodeWord 0b1000000100100000 = .ok (.ldReg 1 2) ∧
    decodeWord 0b1000000100100001 = .ok (.orReg 1 2) ∧
    decodeWord 0b1000000100100010 = .ok (.andReg 1 2) ∧
    decodeWord 0b1000000100100011 = .ok (.xorReg 1 2) := by decide

/-- Rows 15 to 20: 8xy4 to 8xy7, 8xyE, 9xy0. -/
theorem test_decode_rows_15_to_20 :
    decodeWord 0b1000000000010100 = .ok (.addReg 0 1) ∧
    decodeWord 0b1000000000010101 = .ok (.subReg 0 1) ∧
    decodeWord 0b1000000100100110 = .ok (.shr 1 2) ∧
    decodeWord 0b1000000000010111 = .ok (.subn 0 1) ∧
    decodeWord 0b1000000100101110 = .ok (.shl 1 2) ∧
    decodeWord 0b1001000100100000 = .ok (.sneReg 1 2) := by decide

/-- Rows 21 to 28: Annn, Bnnn, Cxnn, Dxyn, Ex9E, ExA1, Fx07, Fx0A. -/
theorem test_decode_rows_21_to_28 :
    decodeWord 0b1010001011110000 = .ok (.ldI 0x2F0) ∧
    decodeWord 0b1011001100000000 = .ok (.jpV0 0x300) ∧
    decodeWord 0b1100001100001111 = .ok (.rnd 3 0x0F) ∧
    decodeWord 0b1101000100100101 = .ok (.drw 1 2 5) ∧
    decodeWord 0b1110101010011110 = .ok (.skp 10) ∧
    decodeWord 0b1110000110100001 = .ok (.sknp 1) ∧
    decodeWord 0b1111001000000111 = .ok (.ldVxDt 2) ∧
    decodeWord 0b1111001100001010 = .ok (.ldVxK 3) := by decide

/-- Rows 29 to 35: Fx15, Fx18, Fx1E, Fx29, Fx33, Fx55, Fx65. -/
theorem test_decode_rows_29_to_35 :
    decodeWord 0b1111001000010101 = .ok (.ldDt 2) ∧
    decodeWord 0b1111000000011000 = .ok (.ldSt 0) ∧
    decodeWord 0b1111010000011110 = .ok (.addI 4) ∧
    decodeWord 0b1111001000101001 = .ok (.ldF 2) ∧
    decodeWord 0b1111000000110011 = .ok (.ldB 0) ∧
    decodeWord 0b1111000101010101 = .ok (.ldMemVx 1) ∧
    decodeWord 0b1111001001100101 = .ok (.ldVxMem 2) := by decide

/-- Illegal words (T18, T19, T44, T64, T94). -/
theorem test_decode_rejects :
    decodeWord 0x5121 = .error (.unknownOpcode 0x5121) ∧
    decodeWord 0x9001 = .error (.unknownOpcode 0x9001) ∧
    decodeWord 0x8128 = .error (.unknownOpcode 0x8128) ∧
    decodeWord 0xF100 = .error (.unknownOpcode 0xF100) ∧
    decodeWord 0xE19F = .error (.unknownOpcode 0xE19F) := by decide

/-- Two bytes make an instruction, high byte first (R43, R60); one byte does not. -/
theorem test_decode_bytes :
    decode [0x60, 0x0A, 0x70] = .ok (.ldImm 0 0x0A, [0x70]) ∧
    decode [0x60] = .error .truncated ∧ decode [] = .error .truncated := by decide

/-- R69's examples: 0x600A, 0x7005, 0xD125, 0xEA9E, 0x220E. -/
theorem test_encode_examples :
    encode (.ldImm 0 0x0A) = [0x60, 0x0A] ∧ encode (.addImm 0 0x05) = [0x70, 0x05] ∧
    encode (.drw 1 2 5) = [0xD1, 0x25] ∧ encode (.skp 10) = [0xEA, 0x9E] ∧
    encode (.call 0x20E) = [0x22, 0x0E] := by decide

theorem test_table_word : decodeTableWord 16 0x8014 = some (.addReg 0 1) ∧ decodeTableWord 16 0x8018 = none := by
  decide

/-! ## One step -/

/-- The state after one STEP that runs the word. -/
def after (w : Nat) (s : State) : State :=
  match step (s.withFetchWord 16 w) with
  | .next t => t
  | .fault _ => s
  | .refused _ => s

/-- The reset state with two registers set. -/
def regs (x : Reg) (a : Byte) (y : Reg) (b : Byte) : State := (State.reset.setV x a).setV y b

/-- The outcome of the STEP as spec/95_test_vectors.md writes it. -/
def out (s : State) : Bool × Bool × Nat × Nat :=
  (s.redraw, s.soundActive, s.fault.code.toNat, s.finfo.toNat)

/-- T1, T2. -/
theorem test_jp : (after 0x1204 .reset).pc = 0x204 ∧ (after 0x1203 .reset).pc = 0x203 := by decide

/-- T3. -/
theorem test_call : (after 0x220E .reset).stack[0] = 0x0202 ∧ (after 0x220E .reset).sp = 1 ∧
    (after 0x220E .reset).pc = 0x20E := by decide

/-- S5: the seventeenth nested CALL. -/
theorem test_call_overflow :
    let t := after 0x2200 { State.reset with sp := 16 }
    out t = (false, false, 2, 0x0200) ∧ t.sp = 16 ∧ t.pc = 0x200 := by decide

/-- T4. -/
theorem test_ret :
    let t := after 0x00EE { State.reset with sp := 1, stack := State.reset.stack.set 0 0x206, pc := 0x210 }
    t.sp = 0 ∧ t.pc = 0x206 := by decide

/-- T5. -/
theorem test_ret_underflow : out (after 0x00EE .reset) = (false, false, 3, 0x0200) ∧
    (after 0x00EE .reset).pc = 0x200 := by decide

/-- T6, T7. -/
theorem test_se_imm : (after 0x332A (regs 3 0x2A 0 0)).pc = 0x204 ∧ (after 0x332A (regs 3 0x2B 0 0)).pc = 0x202 := by
  decide

/-- T8, T9. -/
theorem test_sne_imm : (after 0x4001 .reset).pc = 0x204 ∧ (after 0x4001 (regs 0 1 1 0)).pc = 0x202 := by decide

/-- T10; and unequal registers do not skip (R87). -/
theorem test_se_reg : (after 0x5120 (regs 1 7 2 7)).pc = 0x204 ∧ (after 0x5120 (regs 1 7 2 8)).pc = 0x202 := by decide

/-- T12, T13. -/
theorem test_sne_reg : (after 0x9120 (regs 1 7 2 8)).pc = 0x204 ∧ (after 0x9110 (regs 1 7 2 8)).pc = 0x202 := by
  decide

/-- T14, T15: the target is not reduced to 12 bits. -/
theorem test_jp_v0 : (after 0xB300 (regs 0 0x04 1 0)).pc = 0x304 ∧
    (after 0xBFFF (regs 0 0xFF 1 0)).pc = 0x10FE ∧ (after 0xBFFF (regs 0 0xFF 1 0)).fault = .none := by decide

/-- T16, T17. -/
theorem test_sys : out (after 0x0000 .reset) = (false, false, 4, 0x0000) ∧
    out (after 0x0123 .reset) = (false, false, 4, 0x0123) ∧ (after 0x0123 .reset).pc = 0x200 := by decide

/-- T18: an illegal word faults with the word. -/
theorem test_illegal_word : out (after 0x5121 .reset) = (false, false, 4, 0x5121) := by decide

/-- T20. -/
theorem test_ld_imm : (after 0x6AFF .reset).readV 10 = 0xFF ∧ (after 0x6AFF .reset).pc = 0x202 := by decide

/-- T21: no carry is written. -/
theorem test_add_imm : (after 0x7001 (regs 0 0xFF 15 7)).readV 0 = 0 ∧ (after 0x7001 (regs 0 0xFF 15 7)).readV 15 = 7 := by
  decide

/-- T22. -/
theorem test_ld_reg : (after 0x8120 (regs 2 0x33 0 0)).readV 1 = 0x33 := by decide

/-- T23, T24, T25. -/
theorem test_logic : (after 0x8121 (regs 1 0xF0 2 0x3C)).readV 1 = 0xFC ∧
    (after 0x8122 (regs 1 0xF0 2 0x3C)).readV 1 = 0x30 ∧
    (after 0x8123 (regs 1 0xF0 2 0x3C)).readV 1 = 0xCC := by decide

/-- T26, T28. -/
theorem test_add_reg : (after 0x8014 (regs 0 0xFF 1 1)).readV 0 = 0 ∧ (after 0x8014 (regs 0 0xFF 1 1)).readV 15 = 1 ∧
    (after 0x8014 (regs 0 0x80 1 0x7F)).readV 15 = 0 := by decide

/-- T29, T30: VF as destination and as operand. -/
theorem test_add_reg_vf : (after 0x8F14 (regs 15 0xF0 1 0x20)).readV 15 = 1 ∧
    (after 0x80F4 (regs 0 0x10 15 0xFF)).readV 0 = 0x0F ∧ (after 0x80F4 (regs 0 0x10 15 0xFF)).readV 15 = 1 := by decide

/-- T33, T34. -/
theorem test_sub_reg : (after 0x8015 (regs 0 0 1 1)).readV 0 = 0xFF ∧ (after 0x8015 (regs 0 0 1 1)).readV 15 = 0 ∧
    (after 0x8015 (regs 0 0x42 1 0x42)).readV 15 = 1 := by decide

/-- T37, T38. -/
theorem test_subn : (after 0x8017 (regs 0 0x0A 1 0x05)).readV 0 = 0xFB ∧
    (after 0x8017 (regs 0 0x0A 1 0x05)).readV 15 = 0 ∧ (after 0x8017 (regs 0 0x05 1 0x0A)).readV 0 = 0x05 ∧
    (after 0x8017 (regs 0 0x05 1 0x0A)).readV 15 = 1 := by decide

/-- A register of the state a meaning gives. -/
def regOf (r : Reg) : Result → Option Byte
  | .next t => some (t.readV r)
  | .fault _ => none
  | .refused _ => none

/-- T39, both values of `SHIFT_SRC_VY`. -/
theorem test_shr : (after 0x8126 (regs 1 0xAA 2 7)).readV 1 = 3 ∧ (after 0x8126 (regs 1 0xAA 2 7)).readV 2 = 7 ∧
    (after 0x8126 (regs 1 0xAA 2 7)).readV 15 = 1 ∧
    regOf 1 (execShrWith ⟨false, true, 0⟩ 1 2 (regs 1 0xAA 2 7)) = some 0x55 := by decide

/-- T43, both values of `SHIFT_SRC_VY`. -/
theorem test_shl : (after 0x812E (regs 1 0 2 0xC1)).readV 1 = 0x82 ∧ (after 0x812E (regs 1 0 2 0xC1)).readV 15 = 1 ∧
    regOf 15 (execShlWith ⟨false, true, 0⟩ 1 2 (regs 1 0 2 0xC1)) = some 0 := by decide

/-- T50. -/
theorem test_ld_i : (after 0xA2F0 .reset).i = 0x2F0 := by decide

/-- T52, T53. -/
theorem test_add_i : (after 0xF01E { regs 0 1 1 0 with i := 0x0FFF }).i = 0x1000 ∧
    (after 0xF01E { regs 0 2 15 5 with i := 0xFFFF }).i = 1 ∧
    (after 0xF01E { regs 0 2 15 5 with i := 0xFFFF }).readV 15 = 5 := by decide

/-- T54, T55. -/
theorem test_ld_f : (after 0xF229 (regs 2 0x0A 0 0)).i = 0x32 ∧ (after 0xF229 (regs 2 0x1A 0 0)).i = 0x32 := by decide

/-- T56, T57. -/
theorem test_ld_b : (after 0xF033 { regs 0 0xEA 1 0 with i := 0x300 }).mem.readBytes 0x300 3 = [2, 3, 4] ∧
    (after 0xF033 { regs 0 0xFF 1 0 with i := 0xFFD }).mem.readBytes 0xFFD 3 = [2, 5, 5] := by decide

/-- T58. -/
theorem test_ld_b_fault :
    let t := after 0xF033 { regs 0 0xFF 1 0 with i := 0xFFE }
    out t = (false, false, 1, 0x1000) ∧ t.mem.readBytes 0xFFE 2 = [0, 0] ∧ t.pc = 0x200 := by decide

/-- T59, T60. -/
theorem test_ld_mem_vx :
    let t := after 0xF155 { regs 0 0x11 1 0x22 with i := 0x400 }
    let u := after 0xF055 { regs 0 0xAB 1 0 with i := 0xFFF }
    t.mem.readBytes 0x400 2 = [0x11, 0x22] ∧ t.i = 0x402 ∧ u.mem.read 0xFFF = 0xAB ∧ u.i = 0x1000 := by decide

/-- T61. -/
theorem test_ld_mem_vx_fault :
    let t := after 0xF155 { regs 0 0xAB 1 0 with i := 0xFFF }
    out t = (false, false, 1, 0x1000) ∧ t.mem.read 0xFFF = 0 ∧ t.i = 0xFFF := by decide

/-- T62. -/
theorem test_ld_vx_mem :
    let t := after 0xF265 { State.reset.store 0x300 [2, 3, 4] with i := 0x300 }
    t.readV 0 = 2 ∧ t.readV 1 = 3 ∧ t.readV 2 = 4 ∧ t.readV 3 = 0 ∧ t.i = 0x303 := by decide

/-- T63. -/
theorem test_ld_vx_mem_fault : out (after 0xF165 { State.reset with i := 0x5000 }) = (false, false, 1, 0x5000) := by
  decide

/-- T70. -/
theorem test_cls :
    let t := after 0x00E0 { State.reset with fb := Vector.replicate 32 5 }
    t.fb = Framebuffer.clear ∧ out t = (true, false, 0, 0) := by decide

/-- The pixels set in a row of the framebuffer. -/
def rowPixels (s : State) (y : Fin 32) : List (Fin 64) := (List.finRange 64).filter (fun x => s.pixel x y)

/-- T72: wrap in both directions. -/
theorem test_drw_wrap :
    let t := after 0xD012 { (regs 0 62 1 31).store 0x300 [0xC3, 0x81] with i := 0x300 }
    rowPixels t 31 = [4, 5, 62, 63] ∧ rowPixels t 0 = [5, 62] ∧ t.readV 15 = 0 ∧ t.redraw = true := by decide

/-- T77: a partial overlap is a collision. -/
theorem test_drw_collision :
    let s := { State.reset.store 0x300 [0x3C] with i := 0x300, fb := Framebuffer.clear.set 0 0xF }
    let t := after 0xD011 s
    rowPixels t 0 = [0, 1, 4, 5] ∧ t.readV 15 = 1 := by decide

/-- T74, T75. -/
theorem test_drw_range :
    out (after 0xD012 { regs 15 7 0 0 with i := 0xFFF }) = (false, false, 1, 0x1000) ∧
    out (after 0xD010 { regs 15 7 0 0 with i := 0xFFFF }) = (true, false, 0, 0) ∧
    (after 0xD010 { regs 15 7 0 0 with i := 0xFFFF }).readV 15 = 0 := by decide

/-- T80, T82. -/
theorem test_skp : (after 0xE19E { regs 1 5 0 0 with keys := 0x20 }).pc = 0x204 ∧
    (after 0xE19E { regs 1 0x15 0 0 with keys := 0x20 }).pc = 0x204 ∧
    (after 0xE19E { regs 1 4 0 0 with keys := 0x20 }).pc = 0x202 := by decide

/-- T83, T84. -/
theorem test_sknp : (after 0xE1A1 { regs 1 5 0 0 with keys := 0x20 }).pc = 0x202 ∧
    (after 0xE1A1 (regs 1 5 0 0)).pc = 0x204 := by decide

/-- T85: nothing changes. -/
theorem test_ld_vx_k_wait : exec (.ldVxK 3) .reset = .next .reset := by rfl

/-- T86, T87. -/
theorem test_ld_vx_k : (after 0xF30A { State.reset with keys := 0x0900 }).readV 3 = 8 ∧
    (after 0xF30A { State.reset with keys := 0x8000 }).readV 3 = 0x0F ∧
    (after 0xF30A { State.reset with keys := 0x8000 }).pc = 0x202 := by decide

/-- T88. -/
theorem test_ld_vx_dt : (after 0xF207 { State.reset with dt := 0x3C }).readV 2 = 0x3C := by decide

/-- T89. -/
theorem test_ld_dt : (after 0xF215 (regs 2 0x3C 0 0)).dt = 0x3C := by decide

/-- T90. -/
theorem test_ld_st :
    let t := after 0xF018 (regs 0 2 1 0)
    t.st = 2 ∧ out t = (false, true, 0, 0) ∧ t.tick.soundActive = true ∧ t.tick.tick.soundActive = false ∧
    t.tick.tick.tick.st = 0 := by decide

/-- T91, T93: for the input 0xB7. -/
theorem test_rnd : (rndResult 0xB7 3 0x0F .reset).readV 3 = 7 ∧ (rndResult 0xB7 3 0xFF .reset).readV 3 = 0xB7 := by
  decide

/-- T100, T101: a fetch at the end of memory. -/
theorem test_fetch_range :
    (State.fetch { State.reset with pc := 0xFFF }) = .error 0x1000 ∧
    (State.fetch { State.reset with pc := 0x10FE }) = .error 0x10FE ∧
    (State.fetch { State.reset.store 0xFFE [0x60, 0x01] with pc := 0xFFE }) = .ok 0x6001 := by decide

/-- T103: a halted block does nothing. -/
theorem test_halted :
    let t := after 0x0000 .reset
    step t = .next t ∧ t.tick = t ∧ t.setKeys 0xFFFF = t := by exact ⟨rfl, rfl, rfl⟩

/-- T104, with the image of the smallest size that fails. -/
theorem test_reset_too_large :
    let t := State.reset.resetWith (List.replicate 3585 0x60)
    t.fault = .imageTooLarge ∧ t.finfo = 3585 ∧ t.mem.read 0x200 = 0 := by decide +kernel

/-- T102: RESET with an image, then an odd fetch. -/
theorem test_reset_image :
    let t := (State.reset.resetWith [0x12, 0x03, 0x00, 0x61, 0x55])
    t.mem.readBytes 0x200 5 = [0x12, 0x03, 0x00, 0x61, 0x55] ∧ t.mem.wf = true ∧
    State.fetch { t with pc := 0x203 } = .ok 0x6155 := by decide

/-- T107: the font after RESET. -/
theorem test_font : State.reset.mem.readBytes 0 5 = [0xF0, 0x90, 0x90, 0x90, 0xF0] ∧
    State.reset.mem.readBytes 0x4B 5 = [0xF0, 0x80, 0xF0, 0x80, 0x80] ∧ State.reset.mem.read 0x50 = 0 := by decide

theorem test_build_legal : build.wf = true := by decide

/-! ## Witnesses: for each statement with hypotheses a concrete case that meets them, each clause at a boundary of its range -/

/-- A halted state, with the redraw output at 0. -/
def halted : State := { State.reset with fault := .unknownOpcode, finfo := 0 }

/-- The reset state with `I` at `i`. -/
def atIndex (i : Word) : State := { State.reset with i := i }

/-- The reset state with `PC` at `pc`. -/
def atPc (pc : Word) : State := { State.reset with pc := pc }

/-- The reset state with `n` return addresses on the stack. -/
def depth (n : Fin 17) : State := { State.reset with sp := n }

/-- The reset state about to run the word. -/
def about (w : Nat) (s : State) : State := s.withFetchWord 16 w

theorem witness_DecodeOfEncodeIsTheInstruction :
    (Instr.sys 0x0E1).wf = true ∧ (Instr.sys 0xFFF).wf = true ∧ (Instr.drw 15 0 15).wf = true := by decide

theorem witness_EncodeOfDecodeIsTheWord : decodeWord 0x00E1 = .ok (.sys 0x0E1) ∧ decodeWord 0xDFFF = .ok (.drw 15 15 15) := by
  decide

/-- A legal and an illegal word of each group of R65's table. -/
theorem witness_IllegalWordsAreThoseOfTheTable :
    decodeWord 0x5FF1 = .error (.unknownOpcode 0x5FF1) ∧ decodeWord 0x5FF0 = .ok (.seReg 15 15) ∧
    decodeWord 0x800F = .error (.unknownOpcode 0x800F) ∧ decodeWord 0x800E = .ok (.shl 0 0) ∧
    decodeWord 0xE09F = .error (.unknownOpcode 0xE09F) ∧ decodeWord 0xE09E = .ok (.skp 0) ∧
    decodeWord 0xF066 = .error (.unknownOpcode 0xF066) ∧ decodeWord 0xF065 = .ok (.ldVxMem 0) := by decide

/-- The last `PC` with a whole word. -/
theorem witness_StepRunsTheDecodedInstruction :
    let s := about 0x6AFF (atPc 0xFFE)
    s.fault = .none ∧ s.pc.toNat + 1 < 4096 ∧
    decode [s.mem.read s.pc.toNat, s.mem.read (s.pc.toNat + 1)] = .ok (.ldImm 10 0xFF, []) := by decide

theorem witness_FetchIsBigEndianAndRangeChecked :
    (atPc 0xFFE).pc.toNat ≤ 4094 ∧ (atPc 0xFFF).pc.toNat = 4095 ∧ 4096 ≤ (atPc 0x1000).pc.toNat := by decide

theorem witness_FetchAndDecodeFaultsSetTheLatch :
    ((atPc 0x1000).fault = .none ∧ 4096 ≤ (atPc 0x1000).pc.toNat) ∧
    ((atPc 0xFFF).fault = .none ∧ (atPc 0xFFF).pc.toNat = 4095) ∧
    (about 0x5121 .reset).fault = .none ∧ (about 0x5121 .reset).fetch = .ok 0x5121 ∧
    decodeWord 0x5121 = .error (.unknownOpcode 0x5121) := by decide

theorem witness_HaltedUntilReset :
    halted.fault ≠ .none ∧ halted.redraw = false ∧
    ∀ image, HostOp.reset image ∉ [HostOp.step, .tick, .setKeys 0xFFFF] := by
  refine ⟨by decide, by decide, fun image h => ?_⟩
  simp at h

theorem witness_FaultsArePrecise :
    State.reset.fault = .none ∧ step State.reset = .next (State.reset.raise .unknownOpcode 0x0000) ∧
    (State.reset.raise .unknownOpcode 0x0000).fault ≠ .none := ⟨by decide, rfl, by decide⟩

/-- The four forms that check a range from `I`, each at the lowest `I` out of range; the last at the highest. -/
theorem witness_FaultsHaveExactlyTheirCauses_memory :
    step (about 0xF033 (atIndex 0xFFE)) = .next ((about 0xF033 (atIndex 0xFFE)).raise .addressOutOfRange 0x1000) ∧
    step (about 0xD012 (atIndex 0xFFF)) = .next ((about 0xD012 (atIndex 0xFFF)).raise .addressOutOfRange 0x1000) ∧
    step (about 0xF155 (atIndex 0xFFF)) = .next ((about 0xF155 (atIndex 0xFFF)).raise .addressOutOfRange 0x1000) ∧
    step (about 0xFF65 (atIndex 0xFFFF)) = .next ((about 0xFF65 (atIndex 0xFFFF)).raise .addressOutOfRange 0xFFFF) :=
  ⟨rfl, rfl, rfl, rfl⟩

/-- A fetch with its second byte out of range, one with both, and an illegal word. -/
theorem witness_FaultsHaveExactlyTheirCauses_fetch :
    step (atPc 0xFFF) = .next ((atPc 0xFFF).raise .addressOutOfRange 0x1000) ∧
    step (atPc 0x10FE) = .next ((atPc 0x10FE).raise .addressOutOfRange 0x10FE) ∧
    step (about 0x5121 .reset) = .next ((about 0x5121 .reset).raise .unknownOpcode 0x5121) := ⟨rfl, rfl, rfl⟩

/-- The faults of the stack, and SYS. -/
theorem witness_FaultsHaveExactlyTheirCauses :
    step (about 0x2200 (depth 16)) = .next ((about 0x2200 (depth 16)).raise .stackOverflow 0x200) ∧
    step (about 0x00EE (depth 0)) = .next ((about 0x00EE (depth 0)).raise .stackUnderflow 0x200) ∧
    step (about 0x0123 .reset) = .next ((about 0x0123 .reset).raise .unknownOpcode 0x0123) := ⟨rfl, rfl, rfl⟩

/-- A STEP that signals a redraw and one that does not. -/
theorem witness_RedrawReportsDisplayInstructions :
    (after 0x00E0 .reset).outcome.redraw = true ∧ (after 0xD010 .reset).outcome.redraw = true ∧
    (after 0x6001 { State.reset with redraw := true }).outcome.redraw = false := by decide

theorem witness_StepKeepsTheInvariant :
    State.reset.Inv ∧ step State.reset = .next (State.reset.raise .unknownOpcode 0x0000) :=
  ⟨⟨by decide, by decide, fun _ h => absurd h (Nat.not_lt_zero _), rfl⟩, rfl⟩

theorem witness_HostOperationsKeepTheInvariant : State.reset.Inv := witness_StepKeepsTheInvariant.1

theorem witness_MemoryFormIsCanonical :
    Memory.wf [(0, 1), (4095, 2)] = true ∧ Memory.wf ((Memory.write [(4095, 2)] 0 3).write 0 1) = true ∧
    ((Memory.write [(4095, 2)] 0 3).write 0 1) = [(0, 1), (4095, 2)] := by decide

theorem witness_InstructionsChangeOnlyTheirParts : exec .cls .reset = .next ((State.reset.show Framebuffer.clear).advance) := rfl

theorem witness_RegistersWrittenOnlyAsListed :
    exec (.addReg 0 1) .reset = .next (((State.reset.setV 0 0).setV VF 0).advance) ∧
    mayWriteReg (.addReg 0 1) 1 = false ∧ mayWriteReg (.ldVxMem 14) 15 = false := ⟨rfl, rfl, rfl⟩

theorem witness_TimersChangeOnlyByTheirLoads :
    (after 0xF215 (regs 2 0x3C 0 0)).dt = 0x3C ∧ (after 0xF218 (regs 2 0x3C 0 0)).dt = 0 := by decide

theorem witness_PcAdvanceTable :
    State.reset.fault = .none ∧ exec (.jp 0xFFF) .reset = .next (State.reset.jump 0xFFF) ∧
    (State.reset.jump 0xFFF).fault = .none := ⟨rfl, rfl, rfl⟩

theorem witness_OtherInstructionsIgnoreTheKeys :
    readsKeys (.jp 0xFFF) = false ∧ exec (.jp 0xFFF) .reset = .next (State.reset.jump 0xFFF) := ⟨rfl, rfl⟩

/-- Room for one more return address, and none. -/
theorem witness_CallPushesTheReturnAddress : (depth 15).sp.val < 16 ∧ (depth 16).sp.val = 16 := by decide

theorem witness_RetPopsThePc : (depth 1).sp.val ≠ 0 ∧ (depth 0).sp.val = 0 := by decide

theorem witness_RetReturnsAfterItsCall : (depth 15).sp.val < 16 := by decide

theorem witness_SixteenCallsNestAndSeventeenOverflow :
    State.reset.fault = .none ∧ State.reset.sp.val = 0 ∧ (List.replicate 16 (0x200 : BitVec 12)).length ≤ 16 ∧
    (List.replicate 17 (0x200 : BitVec 12)).length = 17 := by decide

theorem witness_ShiftsInPlaceWithTheOtherParameter : (Config.mk false true 0).shiftSrcVy = false := rfl

/-- The highest legal FONT_BASE. -/
theorem witness_LdFPointsAtTheGlyph : (Config.mk true true 0x1B0).wf = true := by decide

theorem witness_LdBStoresTheDecimalDigits : (atIndex 0xFFD).i.toNat + 2 < 4096 := by decide

theorem witness_LdMemVxStoresTheRegisters :
    (atIndex 0xFF0).i.toNat + (15 : Reg).val < 4096 ∧ (Config.mk true false 0).memIncI = false := by decide

theorem witness_LdVxMemLoadsTheRegisters :
    (atIndex 0xFFF).i.toNat + (0 : Reg).val < 4096 ∧ (Config.mk true false 0).memIncI = false := by decide

/-- Each clause at the lowest `I` out of range, and at the highest. -/
theorem witness_MemoryInstructionsFaultOutOfRange :
    4096 ≤ (atIndex 0xFFE).i.toNat + 2 ∧ 4096 ≤ (atIndex 0xFFF).i.toNat + (1 : Reg).val ∧
    4096 ≤ (atIndex 0xFFFF).i.toNat + (0 : Reg).val ∧
    ((2 : Fin 16) ≠ 0 ∧ 4096 ≤ (atIndex 0xFFF).i.toNat + (2 : Fin 16).val - 1) := by decide

theorem witness_DumpThenLoadRestoresTheRegisters : (atIndex 0xFF0).i.toNat + (15 : Reg).val < 4096 := by decide

theorem witness_StoredBytesAreFetched : 1 ≤ (1 : Reg).val ∧ (atIndex 0xFFE).i.toNat + (1 : Reg).val < 4096 := by decide

theorem witness_WaitForKeyTakesTheLeastKey : State.reset.keys = 0 ∧ { State.reset with keys := 0x8000 }.keys ≠ 0 := by decide

theorem witness_RndMasksTheFreeByte : (0x7F : Byte).getLsbD 7 = false := by decide

/-- For the three timer and key statements: a running block and a halted one. -/
theorem witness_TickDecrementsBothTimers : State.reset.fault = .none ∧ halted.fault ≠ .none := by decide

theorem witness_TicksCountDownToZero : { State.reset with dt := 1, st := 255 }.fault = .none := by decide

theorem witness_SetKeysWritesAllSixteenBits : State.reset.fault = .none ∧ halted.fault ≠ .none := by decide

/-- `n = 0` with `I` out of range, and the last `I` in range; a pixel under a 1 bit and one that is not. -/
theorem witness_DrwXorsTheSpriteAndReportsCollision :
    ((0 : Fin 16) = 0 ∨ (atIndex 0xFFFF).i.toNat + (0 : Fin 16).val ≤ 4096) ∧
    ((15 : Fin 16) = 0 ∨ (atIndex 0xFF1).i.toNat + (15 : Fin 16).val ≤ 4096) ∧
    UnderSpriteBit (fun _ => 0x81) 1 63 31 6 31 ∧ ¬ UnderSpriteBit (fun _ => 0x81) 1 63 31 6 30 := by
  refine ⟨by decide, by decide, ⟨0, 7, by decide, by decide, by decide, rfl, rfl⟩, ?_⟩
  rintro ⟨r, c, hr, -, -, -, h⟩
  have : r = 0 := by omega
  subst this
  exact absurd h (by decide)

theorem witness_RowsWrapAroundTheWidth :
    ((31 : Fin 32).val = 31 % 32 ∧ ∃ c, c < 8 ∧ (6 : Fin 64).val = (63 + c) % 64) ∧
    ¬ ((31 : Fin 32).val = 31 % 32 ∧ ∃ c, c < 8 ∧ (7 : Fin 64).val = (63 + c) % 64) := by
  refine ⟨⟨rfl, 7, by decide, rfl⟩, ?_⟩
  rintro ⟨-, c, hc, h⟩
  change 7 = (63 + c) % 64 at h
  omega

theorem witness_DrawingTwiceRestoresTheDisplay : (List.replicate 15 (0xFF : Byte)).length ≤ 15 := by decide

/-- The longest image that fits. -/
theorem witness_ResetSetsEveryRegister : (List.replicate 3584 (0 : Byte)).length ≤ 3584 := by
  rw [List.length_replicate]

theorem witness_ResetLoadsFontAndImage :
    (List.replicate 3584 (0 : Byte)).length ≤ 3584 ∧ 3583 < (List.replicate 3584 (0 : Byte)).length := by
  rw [List.length_replicate]
  decide

theorem witness_OversizedImageHaltsAtReset : 3584 < (List.replicate 3585 (0 : Byte)).length := by
  rw [List.length_replicate]
  decide

end Sys2Proof.Tests
end

section
/-! SUPPORT. The proof about instruction fetch (spec/20_memory.md R43). -/

namespace Sys2Proof.Machine

/-- Settles O6: a whole word lies at `PC` up to 4094; from 4095 on the fetch reports the larger of `PC` and 4096. -/
theorem fetchIsBigEndianAndRangeChecked : Obligations.FetchIsBigEndianAndRangeChecked := by
  intro s
  refine ⟨fun hin => ?wholeWord, fun hlast => ?lastByte, fun hout => ?outside⟩
  case wholeWord => exact State.fetch_of_inside (by unfold memSize; omega)
  case lastByte => rw [State.fetch_of_outside (by unfold memSize; omega), hlast, max_eq_right (by decide)]
  case outside => rw [State.fetch_of_outside (by unfold memSize; omega), max_eq_left hout]

end Sys2Proof.Machine
end

section
/-! SUPPORT. The proofs about the display (spec/43_display.md R141, R144). -/

namespace Sys2Proof.Machine

/-! ### CLS -/

/-- What the display instructions write beside VF: pixels, `redraw` and `PC` (R141, R149). -/
theorem State.frame_advance_show (s : State) (fb : Framebuffer) :
    Frame [.display, .redraw, .pc] s (s.show fb).advance := by
  intro p hp
  cases p with
  | display | redraw | pc => exact absurd hp (by decide)
  | regs => exact State.readV_of_v_eq (by simp)
  | index | stack | delay | sound | keys | memory | latch | draws => simp [Same]

theorem exec_cls (s : State) : exec .cls s = .next (s.show Framebuffer.clear).advance := rfl

/-- Settles O53: the next state shows the clear framebuffer, whatever the old one was. -/
theorem clsClearsEveryPixel : Obligations.ClsClearsEveryPixel := by
  refine ⟨by decide, fun s => ⟨_, exec_cls s, fun px py => ?pixels, ?redraw, ?pc, s.frame_advance_show _⟩⟩
  case pixels => simp [State.pixel]
  case redraw => simp
  case pc => simp

/-! ### A row of a sprite -/

theorem get_blitPixel (x0 y : Nat) (b : Byte) (acc : Framebuffer × Bool) (c : Nat) (px : Fin 64) (py : Fin 32) :
    (blitPixel x0 y b acc c).1.get px py =
      (acc.1.get px py ^^
        decide (py.val = y % 32 ∧ b.getLsbD (7 - c) = true ∧ px.val = (x0 + c) % 64)) := by
  unfold blitPixel
  by_cases hbit : b.getLsbD (7 - c) = true
  · simp [hbit, Framebuffer.get_toggle, Fin.ext_iff, and_comm]
  · simp [hbit]

/-- The first `n` columns of a row toggle the pixels under their 1 bits: up to the width, no two columns meet. -/
theorem get_foldl_blitPixel (x0 y : Nat) (b : Byte) (acc : Framebuffer × Bool) (px : Fin 64) (py : Fin 32)
    (n : Nat) (hn : n ≤ 64) :
    ((List.range n).foldl (blitPixel x0 y b) acc).1.get px py =
      (acc.1.get px py ^^
        decide (py.val = y % 32 ∧ ∃ c : Nat, c < n ∧ b.getLsbD (7 - c) = true ∧ px.val = (x0 + c) % 64)) := by
  induction n with
  | zero => simp
  | succ n ih =>
    rw [List.range_succ, List.foldl_append, List.foldl_cons, List.foldl_nil, get_blitPixel, ih (by omega),
      Bool.xor_assoc]
    simp only [Nat.exists_lt_succ_right]
    by_cases hlast : px.val = (x0 + n) % 64
    · have hfirst : ¬ ∃ c, c < n ∧ b.getLsbD (7 - c) = true ∧ px.val = (x0 + c) % 64 := by
        rintro ⟨c, hc, -, hcol⟩
        omega
      simp only [hfirst, and_false, decide_false, Bool.false_xor, false_or]
    · simp only [hlast, and_false, decide_false, Bool.xor_false, or_false]

/-- One sprite byte drawn at `(x0, y)`, as R142 and R144 place its bits. -/
theorem get_blitRow (x0 y : Nat) (b : Byte) (acc : Framebuffer × Bool) (px : Fin 64) (py : Fin 32) :
    (blitRow x0 y b acc).1.get px py =
      (acc.1.get px py ^^
        decide (py.val = y % 32 ∧ ∃ c : Nat, c < 8 ∧ b.getLsbD (7 - c) = true ∧ px.val = (x0 + c) % 64)) :=
  get_foldl_blitPixel x0 y b acc px py 8 (by decide)

theorem Framebuffer.blit_singleton (fb : Framebuffer) (x0 y0 : Nat) (b : Byte) :
    fb.blit x0 y0 [b] = blitRow x0 y0 b (fb, false) := rfl

theorem getLsbD_fullRow (c : Nat) : (0xFF : Byte).getLsbD (7 - c) = true := by
  have h : ∀ i : Fin 8, (0xFF : Byte).getLsbD i = true := by decide
  exact h ⟨7 - c, by omega⟩

/-- Settles O55: every bit of the row is 1, so the pixels toggled are those at its eight columns. -/
theorem rowsWrapAroundTheWidth : Obligations.RowsWrapAroundTheWidth := by
  intro fb x0 y0 px py
  have hrow : (fb.blit x0 y0 [0xFF]).1.get px py =
      (fb.get px py ^^ decide (py.val = y0 % 32 ∧ ∃ c : Nat, c < 8 ∧ px.val = (x0 + c) % 64)) := by
    simpa only [Framebuffer.blit_singleton, getLsbD_fullRow, true_and] using get_blitRow x0 y0 0xFF (fb, false) px py
  rw [hrow]
  refine ⟨fun hunder => ?onTheRow, fun houtside => ?elsewhere⟩
  case onTheRow => rw [decide_eq_true hunder, Bool.xor_true]
  case elsewhere => rw [decide_eq_false houtside, Bool.xor_false]

end Sys2Proof.Machine
end

section
/-! SUPPORT. The proof about the timers under STEP (spec/60_exceptions.md R195). -/

namespace Sys2Proof.Machine

/-! ### The shared operations leave both timers -/

@[simp] theorem State.pushAndJump_dt (s : State) (ret target : Word) : (s.pushAndJump ret target).dt = s.dt := by
  unfold State.pushAndJump; split <;> rfl

@[simp] theorem State.pushAndJump_st (s : State) (ret target : Word) : (s.pushAndJump ret target).st = s.st := by
  unfold State.pushAndJump; split <;> rfl

@[simp] theorem State.popPc_dt (s : State) : s.popPc.dt = s.dt := by
  unfold State.popPc; split <;> rfl

@[simp] theorem State.popPc_st (s : State) : s.popPc.st = s.st := by
  unfold State.popPc; split <;> rfl

/-- The range check lets the instruction finish or raises its fault; it does nothing else (R188). -/
theorem State.guardRange_cases (s : State) (len : Nat) (done : State) :
    s.guardRange len done = done ∨ ∃ info, s.guardRange len done = s.raise .addressOutOfRange info := by
  unfold State.guardRange
  split
  · exact .inr ⟨_, rfl⟩
  · exact .inl rfl

theorem State.guardRange_timers {s done : State} (len : Nat) (hdt : done.dt = s.dt) (hst : done.st = s.st) :
    (s.guardRange len done).dt = s.dt ∧ (s.guardRange len done).st = s.st := by
  obtain h | ⟨info, h⟩ := s.guardRange_cases len done
  · rw [h]; exact ⟨hdt, hst⟩
  · rw [h]; exact ⟨s.raise_dt _ info, s.raise_st _ info⟩

/-! ### One instruction -/

theorem exec_ldDt (x : Reg) (s : State) : exec (.ldDt x) s = .next (s.setDt (s.readV x)).advance := rfl

theorem exec_ldSt (x : Reg) (s : State) : exec (.ldSt x) s = .next (s.setSt (s.readV x)).advance := rfl

/-- LD Vx,K waits with the state unchanged, or writes its register and advances (R163). -/
theorem exec_ldVxK_timers {x : Reg} {s t : State} (h : exec (.ldVxK x) s = .next t) :
    t.dt = s.dt ∧ t.st = s.st := by
  simp only [exec, execLdVxK] at h
  split at h
  · cases h; exact ⟨rfl, rfl⟩
  · cases h; exact ⟨by simp, by simp⟩

/-- What an instruction does to the timers: nothing, or it is one of the two loads. -/
theorem exec_timers_cases {i : Instr} {s t : State} (h : exec i s = .next t) :
    (t.dt = s.dt ∧ t.st = s.st) ∨
    (∃ x, i = .ldDt x ∧ t = (s.setDt (s.readV x)).advance) ∨
    (∃ x, i = .ldSt x ∧ t = (s.setSt (s.readV x)).advance) := by
  cases i with
  | ldDt x => exact .inr (.inl ⟨x, rfl, Host.Outcome.next.inj (h.symm.trans (exec_ldDt x s))⟩)
  | ldSt x => exact .inr (.inr ⟨x, rfl, Host.Outcome.next.inj (h.symm.trans (exec_ldSt x s))⟩)
  | ldVxK x => exact .inl (exec_ldVxK_timers h)
  | call nnn =>
    obtain rfl := Host.Outcome.next.inj h
    exact .inl ⟨s.pushAndJump_dt _ _, s.pushAndJump_st _ _⟩
  | ret =>
    obtain rfl := Host.Outcome.next.inj h
    exact .inl ⟨s.popPc_dt, s.popPc_st⟩
  | ldB | ldMemVx | ldVxMem | drw =>
    obtain rfl := Host.Outcome.next.inj h
    exact .inl (State.guardRange_timers _ rfl rfl)
  | cls | sys | jp | seImm | sneImm | seReg | ldImm | addImm | ldReg | orReg | andReg | xorReg | addReg | subReg
  | shr | subn | shl | sneReg | ldI | jpV0 | rnd | skp | sknp | ldVxDt | addI | ldF =>
    obtain rfl := Host.Outcome.next.inj h
    exact .inl ⟨rfl, rfl⟩

/-! ### One STEP -/

/-- Settles O19: only the execution of a decoded instruction can write a timer, and there only by the two loads. -/
theorem timersChangeOnlyByTheirLoads : Obligations.TimersChangeOnlyByTheirLoads := by
  intro s t h
  obtain ⟨-, hs⟩ | ⟨-, -, hs⟩ | ⟨w, e, -, -, -, -, hs⟩ | ⟨w, i, -, -, hf, hd, hs⟩ := step_cases s
  case inl | inr.inl | inr.inr.inl =>
    obtain rfl := Host.Outcome.next.inj (hs.symm.trans h)
    exact ⟨.inl (by simp), .inl (by simp)⟩
  case inr.inr.inr =>
    obtain ⟨hdt, hst⟩ | ⟨x, rfl, rfl⟩ | ⟨x, rfl, rfl⟩ := exec_timers_cases (hs.symm.trans h)
    · exact ⟨.inl hdt, .inl hst⟩
    · exact ⟨.inr ⟨x, ⟨w, hf, hd⟩, rfl⟩, .inl (by simp)⟩
    · exact ⟨.inl (by simp), .inr ⟨x, ⟨w, hf, hd⟩, rfl⟩⟩

end Sys2Proof.Machine
end

section
/-! SUPPORT. The proofs about the encoding (spec/30_encoding.md R60 to R69). -/

namespace Sys2Proof

/-! ### Which row a word matches (R64) -/

/-- Row `k` of R64, counted from 0. -/
def opRow (k : Fin 35) : OpRow := opcodeTable[k]'k.isLt

/-- The two rows agree on the bits that both masks keep. -/
def OpRow.compatible (r q : OpRow) : Bool := r.pat &&& q.mask == q.pat &&& r.mask

theorem OpRow.compatible_of_common_word {r q : OpRow} {w : Word} (hr : w &&& r.mask = r.pat)
    (hq : w &&& q.mask = q.pat) : r.compatible q = true := by
  rw [OpRow.compatible, ← hr, ← hq, BitVec.and_assoc, BitVec.and_assoc, BitVec.and_comm r.mask, beq_self_eq_true]

/-- "The order matters only for rows 1 to 3" (R64): every other row excludes all rows before it. -/
theorem opRow_excludes : ∀ k j : Fin 35, j < k → k ≠ 2 → (opRow k).compatible (opRow j) = false := by
  decide +kernel

/-- The decoder answers by the first row that the word matches. -/
theorem decodeWord_of_first_row (k : Fin 35) {w : Word} (hmatch : w &&& (opRow k).mask = (opRow k).pat)
    (hfirst : ∀ j < k, w &&& (opRow j).mask ≠ (opRow j).pat) : decodeWord w = .ok ((opRow k).build w) := by
  have hfind : opcodeTable.find? (fun r => (w &&& r.mask) == r.pat) = some (opRow k) :=
    List.find?_eq_some_iff_getElem.mpr ⟨beq_iff_eq.mpr hmatch, k, k.isLt, rfl, fun j hj => by
      have hj35 : j < 35 := Nat.lt_trans hj k.isLt
      exact Bool.not_eq_true' _ ▸ beq_eq_false_iff_ne.mpr (hfirst ⟨j, hj35⟩ hj)⟩
  rw [decodeWord, hfind]

/-- A word of any row but SYS's is of no row before it. -/
theorem decodeWord_of_row (k : Fin 35) {w : Word} (hmatch : w &&& (opRow k).mask = (opRow k).pat) (hk : k ≠ 2) :
    decodeWord w = .ok ((opRow k).build w) := by
  refine decodeWord_of_first_row k hmatch fun j hj hj' => ?_
  exact absurd (OpRow.compatible_of_common_word hmatch hj') (by simp [opRow_excludes k j hj hk])

/-- A word that decodes matches a row of the table, which built the instruction. -/
theorem exists_row_of_decodeWord {w : Word} {i : Instr} (h : decodeWord w = .ok i) :
    ∃ k, w &&& (opRow k).mask = (opRow k).pat ∧ (opRow k).build w = i := by
  unfold decodeWord at h
  split at h
  next r hr =>
    obtain ⟨hmatch, k, hk, hrow, -⟩ := List.find?_eq_some_iff_getElem.mp hr
    subst hrow
    exact ⟨⟨k, hk⟩, beq_iff_eq.mp hmatch, Except.ok.inj h⟩
  next => cases h

/-! ### Decoding an encoded instruction -/

theorem ctorIdx_lt (i : Instr) : i.ctorIdx < 35 := by
  cases i <;> exact Nat.le_of_ble_eq_true rfl

/-- The row of an instruction: the constructors stand in the order of R64. -/
def Instr.row (i : Instr) : Fin 35 := ⟨i.ctorIdx, ctorIdx_lt i⟩

open Laws.EncodeMatchesRow in
theorem encodeMatchesRow (i : Instr) : Statement i :=
  i.rec cls ret sys jp call seImm sneImm seReg ldImm addImm ldReg orReg andReg xorReg addReg subReg shr subn shl
    sneReg ldI jpV0 rnd drw skp sknp ldVxDt ldVxK ldDt ldSt addI ldF ldB ldMemVx ldVxMem

theorem encodeWord_and_mask (i : Instr) : encodeWord i &&& (opRow i.row).mask = (opRow i.row).pat := by
  have hrow : Laws.EncodeMatchesRow.maskMatch i = ((opRow i.row).mask, (opRow i.row).pat) := by
    cases i <;> rfl
  have h := encodeMatchesRow i
  unfold Laws.EncodeMatchesRow.Statement at h
  rwa [hrow] at h

/-- The fields of an encoded instruction are its operands (R62, R69). -/
theorem build_encodeWord (i : Instr) : (opRow i.row).build (encodeWord i) = i := by
  cases i with
  | cls | ret => rfl
  | sys nnn | jp nnn | call nnn | ldI nnn | jpV0 nnn => exact congrArg _ (fieldNNN_formA _ nnn)
  | seImm x nn | sneImm x nn | ldImm x nn | addImm x nn | rnd x nn =>
    exact congrArg₂ _ (fieldX_formXI _ x nn) (fieldNN_formXI _ x nn)
  | seReg x y | ldReg x y | orReg x y | andReg x y | xorReg x y | addReg x y | subReg x y | shr x y | subn x y
  | shl x y | sneReg x y => exact congrArg₂ _ (fieldX_formXYN _ x y _) (fieldY_formXYN _ x y _)
  | drw x y n =>
    show Instr.drw (fieldX (formXYN _ x y _)) (fieldY (formXYN _ x y _)) (fieldN (formXYN _ x y _)) = _
    rw [fieldX_formXYN, fieldY_formXYN, fieldN_formXYN]
  | skp x | sknp x | ldVxDt x | ldVxK x | ldDt x | ldSt x | addI x | ldF x | ldB x | ldMemVx x | ldVxMem x =>
    exact congrArg _ (fieldX_formXI _ x _)

theorem opRow_of_cls_or_ret : ∀ j < (2 : Fin 35), (opRow j).mask = BitVec.allOnes 16 ∧
    (fieldNNN (opRow j).pat = 0x0E0 ∨ fieldNNN (opRow j).pat = 0x0EE) := by
  decide

/-- SYS 0nnn (R81): the rows of CLS and RET come first and keep every bit, so they match two words only. -/
theorem decodeWord_encodeWord_sys {nnn : BitVec 12} (h : (Instr.sys nnn).wf = true) :
    decodeWord (encodeWord (.sys nnn)) = .ok (.sys nnn) := by
  have hne : nnn ≠ 0x0E0 ∧ nnn ≠ 0x0EE := by simpa [Instr.wf, sysIsNotCls, sysIsNotRet] using h
  have hfirst : ∀ j < (2 : Fin 35), encodeWord (.sys nnn) &&& (opRow j).mask ≠ (opRow j).pat := by
    intro j hj hword
    obtain ⟨hmask, hpat⟩ := opRow_of_cls_or_ret j hj
    rw [hmask, BitVec.and_allOnes] at hword
    rw [← hword, encodeWord, fieldNNN_formA] at hpat
    exact hpat.elim hne.1 hne.2
  exact (decodeWord_of_first_row 2 (encodeWord_and_mask (.sys nnn)) hfirst).trans
    (congrArg _ (build_encodeWord (.sys nnn)))

theorem decodeWord_encodeWord {i : Instr} (h : i.wf = true) : decodeWord (encodeWord i) = .ok i := by
  by_cases hsys : i.row = 2
  · cases i with
    | sys nnn => exact decodeWord_encodeWord_sys h
    | _ => exact absurd (congrArg Fin.val hsys) (by simp [Instr.row, Instr.ctorIdx])
  · exact (decodeWord_of_row i.row (encodeWord_and_mask i) hsys).trans (congrArg _ (build_encodeWord i))

/-- Settles O1: the two bytes join to the encoded word, and its row gives the operands back. -/
theorem decodeOfEncodeIsTheInstruction : Obligations.DecodeOfEncodeIsTheInstruction := by
  intro i rest h
  rw [encode, decode_wordBytes, decodeWord_encodeWord h]

/-! ### A word and its fields (R62) -/

/-- The fields of format A cover the word. -/
theorem formA_fields (w : Word) : formA (nibble w 3) (fieldNNN w) = w := by
  apply BitVec.eq_of_getLsbD_eq
  intro i hi
  rw [getLsbD_formA]
  simp only [fieldNNN, nibble, BitVec.getLsbD_extractLsb']
  grind

/-- The fields of formats XI and X cover the word. -/
theorem formXI_fields (w : Word) : formXI (nibble w 3) (fieldX w) (fieldNN w) = w := by
  apply BitVec.eq_of_getLsbD_eq
  intro i hi
  rw [getLsbD_formXI]
  simp only [fieldX, fieldNN, nibble, BitVec.getLsbD_extractLsb', BitVec.ofFin_toFin]
  grind

/-- The fields of formats XY and XYN cover the word. -/
theorem formXYN_fields (w : Word) : formXYN (nibble w 3) (fieldX w) (fieldY w) (nibble w 0) = w := by
  apply BitVec.eq_of_getLsbD_eq
  intro i hi
  rw [getLsbD_formXYN]
  simp only [fieldX, fieldY, nibble, BitVec.getLsbD_extractLsb', BitVec.ofFin_toFin]
  grind

theorem formXI_byte_inj (a b : Byte) : formXI 0 0 a = formXI 0 0 b ↔ a = b := by
  refine ⟨fun h => ?_, fun h => by rw [h]⟩
  rw [← fieldNN_formXI 0 0 a, h, fieldNN_formXI]

/-- The low byte of a word is its two low nibbles. -/
theorem fieldNN_eq_iff (w : Word) (b : Byte) :
    fieldNN w = b ↔ nibble w 1 = b.extractLsb' 4 4 ∧ nibble w 0 = b.extractLsb' 0 4 := by
  have hhi : nibble w 1 = (fieldNN w).extractLsb' 4 4 := by
    rw [← nibble_formXI_hi (nibble w 3) (fieldX w), formXI_fields]
  have hlo : nibble w 0 = (fieldNN w).extractLsb' 0 4 := by
    rw [← nibble_formXI_lo (nibble w 3) (fieldX w), formXI_fields]
  rw [hhi, hlo, ← formXI_byte_inj, word_eq_iff_nibbles]
  simp only [nibble_formXI_op, nibble_formXI_x, nibble_formXI_hi, nibble_formXI_lo, true_and]

/-! ### What the masks of R64 keep -/

theorem nibble_and_ones (v : BitVec 4) : v &&& 15#4 = v := BitVec.and_allOnes

/-- The mask 0xF000 keeps the high nibble. -/
theorem and_F000_eq_iff (w : Word) (c : BitVec 4) : w &&& 0xF000 = formXI c 0 0 ↔ nibble w 3 = c := by
  simp only [word_eq_iff_nibbles, nibble_and, nibble_formXI_op, nibble_formXI_x, nibble_formXI_hi, nibble_formXI_lo]
  simp [nibble, nibble_and_ones]

/-- The mask 0xF00F keeps the high and the low nibble. -/
theorem and_F00F_eq_iff (w : Word) (c n : BitVec 4) :
    w &&& 0xF00F = formXYN c 0 0 n ↔ nibble w 3 = c ∧ nibble w 0 = n := by
  simp only [word_eq_iff_nibbles, nibble_and, nibble_formXYN_op, nibble_formXYN_x, nibble_formXYN_y, nibble_formXYN_n]
  simp [nibble, nibble_and_ones]

/-- The mask 0xF0FF keeps the high nibble and the low byte. -/
theorem and_F0FF_eq_iff (w : Word) (c : BitVec 4) (b : Byte) :
    w &&& 0xF0FF = formXI c 0 b ↔ nibble w 3 = c ∧ fieldNN w = b := by
  simp only [fieldNN_eq_iff, word_eq_iff_nibbles, nibble_and, nibble_formXI_op, nibble_formXI_x, nibble_formXI_hi,
    nibble_formXI_lo]
  simp [nibble, nibble_and_ones]

/-! ### Encoding a decoded word -/

theorem formA_of_match {w : Word} {c : BitVec 4} (h : w &&& 0xF000 = formXI c 0 0) : formA c (fieldNNN w) = w := by
  rw [← (and_F000_eq_iff w c).mp h, formA_fields]

theorem formXI_of_match {w : Word} {c : BitVec 4} (h : w &&& 0xF000 = formXI c 0 0) :
    formXI c (fieldX w) (fieldNN w) = w := by
  rw [← (and_F000_eq_iff w c).mp h, formXI_fields]

theorem formXYN_of_match {w : Word} {c : BitVec 4} (h : w &&& 0xF000 = formXI c 0 0) :
    formXYN c (fieldX w) (fieldY w) (nibble w 0) = w := by
  rw [← (and_F000_eq_iff w c).mp h, formXYN_fields]

theorem formXY_of_match {w : Word} {c n : BitVec 4} (h : w &&& 0xF00F = formXYN c 0 0 n) :
    formXYN c (fieldX w) (fieldY w) n = w := by
  obtain ⟨hop, hn⟩ := (and_F00F_eq_iff w c n).mp h
  rw [← hop, ← hn, formXYN_fields]

theorem formX_of_match {w : Word} {c : BitVec 4} {b : Byte} (h : w &&& 0xF0FF = formXI c 0 b) :
    formXI c (fieldX w) b = w := by
  obtain ⟨hop, hb⟩ := (and_F0FF_eq_iff w c b).mp h
  rw [← hop, ← hb, formXI_fields]

/-- Each row builds from a word of its own an instruction whose encoding is that word. -/
theorem encodeWord_build (k : Fin 35) {w : Word} (h : w &&& (opRow k).mask = (opRow k).pat) :
    encodeWord ((opRow k).build w) = w := by
  match k with
  | 0 | 1 => exact (BitVec.and_allOnes.symm.trans h).symm
  | 2 | 3 | 4 | 20 | 21 => exact formA_of_match h
  | 5 | 6 | 8 | 9 | 22 => exact formXI_of_match h
  | 7 | 10 | 11 | 12 | 13 | 14 | 15 | 16 | 17 | 18 | 19 => exact formXY_of_match h
  | 23 => exact formXYN_of_match h
  | 24 | 25 | 26 | 27 | 28 | 29 | 30 | 31 | 32 | 33 | 34 => exact formX_of_match h
  | ⟨n + 35, hn⟩ => exact absurd hn (by omega)

/-- The words 00E0 and 00EE decode to CLS and RET, so no SYS comes from them (R81). -/
theorem wf_of_decodeWord_encodeWord {i : Instr} (h : decodeWord (encodeWord i) = .ok i) : i.wf = true := by
  cases i with
  | sys nnn =>
    have hcls : nnn ≠ 0x0E0 := by rintro rfl; exact absurd h (by decide)
    have hret : nnn ≠ 0x0EE := by rintro rfl; exact absurd h (by decide)
    simpa [Instr.wf, sysIsNotCls, sysIsNotRet] using And.intro hcls hret
  | _ => rfl

/-- Settles O2: the row that matched gives the word back, and that word decodes to no ill-formed SYS. -/
theorem encodeOfDecodeIsTheWord : Obligations.EncodeOfDecodeIsTheWord := by
  intro w i h
  obtain ⟨k, hmatch, rfl⟩ := exists_row_of_decodeWord h
  have hword := encodeWord_build k hmatch
  exact ⟨hword, wf_of_decodeWord_encodeWord (hword.symm ▸ h)⟩

/-! ### Illegal words (R65) -/

theorem decodeWord_error_iff {w : Word} {e : DecodeError} :
    decodeWord w = .error e ↔ e = .unknownOpcode w ∧ ∀ k, w &&& (opRow k).mask ≠ (opRow k).pat := by
  unfold decodeWord
  split
  next r hr =>
    obtain ⟨hmatch, k, hk, hrow, -⟩ := List.find?_eq_some_iff_getElem.mp hr
    refine ⟨nofun, fun h => absurd (beq_iff_eq.mp hmatch) (hrow ▸ h.2 ⟨k, hk⟩)⟩
  next hnone =>
    have hno : ∀ k, w &&& (opRow k).mask ≠ (opRow k).pat := fun k hk =>
      List.find?_eq_none.mp hnone (opRow k) (List.getElem_mem _) (beq_iff_eq.mpr hk)
    simp [hno, eq_comm]

/-- The high nibbles of the rows that fix nothing else; the words of CLS and RET lie in SYS's row. -/
def freeOps : List (BitVec 4) := [0x0, 0x1, 0x2, 0x3, 0x4, 0x6, 0x7, 0xA, 0xB, 0xC, 0xD]

/-- The high and the low nibble of the rows that fix both. -/
def lowNibbleOps : List (BitVec 4 × BitVec 4) :=
  [(0x5, 0x0), (0x8, 0x0), (0x8, 0x1), (0x8, 0x2), (0x8, 0x3), (0x8, 0x4), (0x8, 0x5), (0x8, 0x6), (0x8, 0x7),
    (0x8, 0xE), (0x9, 0x0)]

/-- The high nibble and the low byte of the rows that fix both. -/
def lowByteOps : List (BitVec 4 × Byte) :=
  [(0xE, 0x9E), (0xE, 0xA1), (0xF, 0x07), (0xF, 0x0A), (0xF, 0x15), (0xF, 0x18), (0xF, 0x1E), (0xF, 0x29),
    (0xF, 0x33), (0xF, 0x55), (0xF, 0x65)]

theorem opRow_kinds : ∀ k : Fin 35,
    (nibble (opRow k).mask 3 = 15#4 ∧ nibble (opRow k).pat 3 ∈ freeOps) ∨
    (∃ p ∈ lowNibbleOps, (opRow k).mask = 0xF00F ∧ (opRow k).pat = formXYN p.1 0 0 p.2) ∨
    (∃ p ∈ lowByteOps, (opRow k).mask = 0xF0FF ∧ (opRow k).pat = formXI p.1 0 p.2) := by
  decide

theorem exists_row_of_freeOp : ∀ op ∈ freeOps, ∃ k, (opRow k).mask = 0xF000 ∧ (opRow k).pat = formXI op 0 0 := by
  decide

theorem exists_row_of_lowNibbleOp :
    ∀ p ∈ lowNibbleOps, ∃ k, (opRow k).mask = 0xF00F ∧ (opRow k).pat = formXYN p.1 0 0 p.2 := by
  simp only [lowNibbleOps, List.forall_mem_cons, List.not_mem_nil, false_imp_iff, implies_true, and_true]
  exact ⟨⟨7, rfl, rfl⟩, ⟨10, rfl, rfl⟩, ⟨11, rfl, rfl⟩, ⟨12, rfl, rfl⟩, ⟨13, rfl, rfl⟩, ⟨14, rfl, rfl⟩,
    ⟨15, rfl, rfl⟩, ⟨16, rfl, rfl⟩, ⟨17, rfl, rfl⟩, ⟨18, rfl, rfl⟩, ⟨19, rfl, rfl⟩⟩

theorem exists_row_of_lowByteOp :
    ∀ p ∈ lowByteOps, ∃ k, (opRow k).mask = 0xF0FF ∧ (opRow k).pat = formXI p.1 0 p.2 := by
  simp only [lowByteOps, List.forall_mem_cons, List.not_mem_nil, false_imp_iff, implies_true, and_true]
  exact ⟨⟨24, rfl, rfl⟩, ⟨25, rfl, rfl⟩, ⟨26, rfl, rfl⟩, ⟨27, rfl, rfl⟩, ⟨28, rfl, rfl⟩, ⟨29, rfl, rfl⟩,
    ⟨30, rfl, rfl⟩, ⟨31, rfl, rfl⟩, ⟨32, rfl, rfl⟩, ⟨33, rfl, rfl⟩, ⟨34, rfl, rfl⟩⟩

/-- The words some row of R64 matches, by their nibbles. -/
theorem exists_row_iff (w : Word) :
    (∃ k, w &&& (opRow k).mask = (opRow k).pat) ↔
      nibble w 3 ∈ freeOps ∨ (nibble w 3, nibble w 0) ∈ lowNibbleOps ∨ (nibble w 3, fieldNN w) ∈ lowByteOps := by
  constructor
  · rintro ⟨k, hk⟩
    obtain ⟨hmask, hop⟩ | ⟨p, hp, hmask, hpat⟩ | ⟨p, hp, hmask, hpat⟩ := opRow_kinds k
    · rw [← hk, nibble_and, hmask, nibble_and_ones] at hop
      exact .inl hop
    · rw [hmask, hpat, and_F00F_eq_iff] at hk
      exact .inr (.inl (by rwa [hk.1, hk.2]))
    · rw [hmask, hpat, and_F0FF_eq_iff] at hk
      exact .inr (.inr (by rwa [hk.1, hk.2]))
  · rintro (h | h | h)
    · obtain ⟨k, hmask, hpat⟩ := exists_row_of_freeOp _ h
      exact ⟨k, by rw [hmask, hpat, and_F000_eq_iff]⟩
    · obtain ⟨k, hmask, hpat⟩ := exists_row_of_lowNibbleOp _ h
      exact ⟨k, by rw [hmask, hpat, and_F00F_eq_iff]; exact ⟨rfl, rfl⟩⟩
    · obtain ⟨k, hmask, hpat⟩ := exists_row_of_lowByteOp _ h
      exact ⟨k, by rw [hmask, hpat, and_F0FF_eq_iff]; exact ⟨rfl, rfl⟩⟩

theorem freeOps_or_group : ∀ op : BitVec 4,
    (op ∈ freeOps ∧ op ≠ 0x5 ∧ op ≠ 0x8 ∧ op ≠ 0x9 ∧ op ≠ 0xE ∧ op ≠ 0xF) ∨
      op = 0x5 ∨ op = 0x8 ∨ op = 0x9 ∨ op = 0xE ∨ op = 0xF := by
  decide

/-- The 8xy group: the low nibbles that no row has. -/
theorem notMem_lowNibbleOps_eight : ∀ n : BitVec 4,
    (0x8, n) ∉ lowNibbleOps ↔ n ∈ ([0x8, 0x9, 0xA, 0xB, 0xC, 0xD, 0xF] : List (BitVec 4)) := by
  decide

/-- Settles O3: outside the five groups every word is legal, and in each of them R65 lists what R64 leaves out. -/
theorem illegalWordsAreThoseOfTheTable : Obligations.IllegalWordsAreThoseOfTheTable := by
  intro w
  refine ⟨fun e he => (decodeWord_error_iff.mp he).1, ?_⟩
  have herr : (∃ e, decodeWord w = .error e) ↔ ¬ ∃ k, w &&& (opRow k).mask = (opRow k).pat := by
    simp [decodeWord_error_iff]
  rw [herr, exists_row_iff]
  show _ ↔ (nibble w 3 = 0x5 ∧ nibble w 0 ≠ 0x0) ∨ (nibble w 3 = 0x8 ∧ nibble w 0 ∈ _) ∨
    (nibble w 3 = 0x9 ∧ nibble w 0 ≠ 0x0) ∨ (nibble w 3 = 0xE ∧ fieldNN w ∉ _) ∨ (nibble w 3 = 0xF ∧ fieldNN w ∉ _)
  obtain ⟨hfree, h5, h8, h9, hE, hF⟩ | hop | hop | hop | hop | hop := freeOps_or_group (nibble w 3)
  case inl => simp only [hfree, h5, h8, h9, hE, hF, true_or, not_true_eq_false, false_and, or_false]
  case inr.inr.inl =>
    rw [← notMem_lowNibbleOps_eight, hop]
    simp [freeOps, lowByteOps]
  all_goals rw [hop]; simp [freeOps, lowNibbleOps, lowByteOps]

/-- Settles O4: each word evaluated in the opcode table. -/
theorem printedWordsDecode : Obligations.PrintedWordsDecode := by
  unfold Obligations.PrintedWordsDecode
  decide

end Sys2Proof
end

section
/-! SUPPORT. What each instruction leaves unchanged (spec/40_control_flow.md to spec/44_keys_timers_random.md). -/

namespace Sys2Proof.Machine

variable {s t u : State} {c d : List Part}

/-! ### Frames -/

theorem Same.refl (p : Part) (s : State) : Same p s s := by
  cases p with
  | stack | latch => exact ⟨rfl, by simp⟩
  | _ => simp [Same]

theorem Same.trans {p : Part} (h : Same p s t) (h' : Same p t u) : Same p s u := by
  cases p <;> simp_all [Same]

theorem Frame.refl (c : List Part) (s : State) : Frame c s s := fun p _ => Same.refl p s

theorem Frame.mono (h : Frame c s t) (hcd : c ⊆ d) : Frame d s t := fun p hp => h p fun hc => hp (hcd hc)

theorem Frame.trans (h : Frame c s t) (h' : Frame c t u) : Frame c s u := fun p hp => (h p hp).trans (h' p hp)

/-- A frame, field by field: each part is named or its fields are equal, by the lemmas of the operations. -/
theorem Frame.of_fields
    (regs : .regs ∈ c ∨ t.v = s.v := by simp [mayWrite])
    (index : .index ∈ c ∨ t.i = s.i := by simp [mayWrite])
    (pc : .pc ∈ c ∨ t.pc = s.pc := by simp [mayWrite])
    (stack : .stack ∈ c ∨ t.sp = s.sp ∧ t.stack = s.stack := by simp [mayWrite])
    (delay : .delay ∈ c ∨ t.dt = s.dt := by simp [mayWrite])
    (sound : .sound ∈ c ∨ t.st = s.st := by simp [mayWrite])
    (keys : .keys ∈ c ∨ t.keys = s.keys := by simp [mayWrite])
    (display : .display ∈ c ∨ t.fb = s.fb := by simp [mayWrite])
    (memory : .memory ∈ c ∨ t.mem = s.mem := by simp [mayWrite])
    (latch : .latch ∈ c ∨ t.fault = s.fault ∧ t.finfo = s.finfo := by simp [mayWrite])
    (redraw : .redraw ∈ c ∨ t.redraw = s.redraw := by simp [mayWrite])
    (draws : .draws ∈ c ∨ t.draws = s.draws := by simp [mayWrite]) : Frame c s t := by
  intro p hp
  cases p with
  | regs => exact State.readV_of_v_eq (regs.resolve_left hp)
  | index => exact index.resolve_left hp
  | pc => exact pc.resolve_left hp
  | stack =>
    obtain ⟨hsp, hstack⟩ := stack.resolve_left hp
    exact ⟨hsp, fun k => by rw [hstack]⟩
  | delay => exact delay.resolve_left hp
  | sound => exact sound.resolve_left hp
  | keys => exact keys.resolve_left hp
  | display => exact fun x y => by rw [State.pixel, State.pixel, display.resolve_left hp]
  | memory => exact fun a => by rw [memory.resolve_left hp]
  | latch => exact latch.resolve_left hp
  | redraw => exact redraw.resolve_left hp
  | draws => exact draws.resolve_left hp

/-! ### The operations that can raise a fault -/

theorem State.stack_pushAndJump_of_room (ret target : Word) (h : s.sp.val < 16) (k : Fin 16) :
    (s.pushAndJump ret target).stack[k] = if k.val = s.sp.val then ret else s.stack[k] := by
  rw [State.pushAndJump_of_room ret target h]
  simp [Vector.getElem_set, eq_comm]

theorem State.frame_raise (s : State) (f : FaultCode) (info : Word) : Frame [.latch, .redraw] s (s.raise f info) :=
  .of_fields

/-- The range check adds the latch and `redraw` to what the instruction changes (R188). -/
theorem Frame.guardRange {done : State} (len : Nat) (h : Frame c s done) (hd : c ++ [.latch, .redraw] ⊆ d) :
    Frame d s (s.guardRange len done) := by
  obtain hdone | ⟨info, hraise⟩ := s.guardRange_cases len done
  · rw [hdone]
    exact h.mono (List.Subset.trans (List.subset_append_left _ _) hd)
  · rw [hraise]
    exact (s.frame_raise _ info).mono (List.Subset.trans (List.subset_append_right _ _) hd)

theorem State.frame_pushAndJump_of_room (ret target : Word) (h : s.sp.val < 16) :
    Frame [.stack, .pc] s (s.pushAndJump ret target) := by
  rw [State.pushAndJump_of_room ret target h]
  exact .of_fields

theorem State.frame_popPc_of_used (h : s.sp.val ≠ 0) : Frame [.stack, .pc] s s.popPc := by
  rw [State.popPc_of_used h]
  exact .of_fields

theorem State.frame_pushAndJump (s : State) (ret target : Word) :
    Frame [.stack, .pc, .latch, .redraw] s (s.pushAndJump ret target) := by
  by_cases h : s.sp.val < 16
  · exact (State.frame_pushAndJump_of_room ret target h).mono (by simp)
  · rw [State.pushAndJump_of_full ret target (by omega)]
    exact (s.frame_raise _ _).mono (by simp)

theorem State.frame_popPc (s : State) : Frame [.stack, .pc, .latch, .redraw] s s.popPc := by
  by_cases h : s.sp.val = 0
  · rw [State.popPc_of_empty h]
    exact (s.frame_raise _ _).mono (by simp)
  · exact (State.frame_popPc_of_used h).mono (by simp)

/-! ### The instructions -/

theorem exec_rnd (x : Reg) (nn : Byte) (s : State) : exec (.rnd x nn) s =
    .next (({ s with draws := s.draws + 1 } : State).setV x (Config.rnd s.draws &&& nn)).advance := rfl

/-- LD Vx,K (R163): with no key down the state stays as it is, else the least key down goes to `V[x]`. -/
theorem exec_ldVxK_cases (x : Reg) (s : State) :
    (s.keys = 0 ∧ exec (.ldVxK x) s = .next s) ∨
    (∃ k, lowestKey s.keys = some k ∧ exec (.ldVxK x) s = .next (s.setV x (BitVec.ofNat 8 k)).advance) := by
  show (_ ∧ execLdVxK x s = _) ∨ ∃ k, _ ∧ execLdVxK x s = _
  unfold execLdVxK
  cases hk : lowestKey s.keys with
  | none => exact .inl ⟨lowestKey_eq_none hk, rfl⟩
  | some k => exact .inr ⟨k, rfl, rfl⟩

/-- What an instruction may change is what its rule lists, whichever of its cases it takes. -/
theorem exec_frame {i : Instr} (h : exec i s = .next t) : Frame (mayWrite i) s t := by
  cases i with
  | cls =>
    obtain rfl := Host.Outcome.next.inj h
    exact s.frame_advance_show _
  | call nnn =>
    obtain rfl := Host.Outcome.next.inj h
    exact s.frame_pushAndJump _ _
  | ret =>
    obtain rfl := Host.Outcome.next.inj h
    exact s.frame_popPc
  | sys nnn =>
    obtain rfl := Host.Outcome.next.inj h
    exact s.frame_raise _ _
  | ldVxK x =>
    obtain ⟨-, hwait⟩ | ⟨k, -, hkey⟩ := exec_ldVxK_cases x s
    · obtain rfl := Host.Outcome.next.inj (hwait.symm.trans h)
      exact Frame.refl _ _
    · obtain rfl := Host.Outcome.next.inj (hkey.symm.trans h)
      exact .of_fields
  | drw x y n =>
    obtain rfl := Host.Outcome.next.inj h
    exact Frame.guardRange (c := [.display, .regs, .redraw, .pc]) _ .of_fields (by simp [mayWrite])
  | ldB x =>
    obtain rfl := Host.Outcome.next.inj h
    exact Frame.guardRange (c := [.memory, .pc]) _ .of_fields (by simp [mayWrite])
  | ldMemVx x =>
    obtain rfl := Host.Outcome.next.inj h
    exact Frame.guardRange (c := [.memory, .index, .pc]) _ .of_fields (by simp [mayWrite])
  | ldVxMem x =>
    obtain rfl := Host.Outcome.next.inj h
    exact Frame.guardRange (c := [.regs, .index, .pc]) _ .of_fields (by simp [mayWrite])
  | rnd x nn =>
    obtain rfl := Host.Outcome.next.inj ((exec_rnd x nn s).symm.trans h)
    exact .of_fields
  | jp | seImm | sneImm | seReg | ldImm | addImm | ldReg | orReg | andReg | xorReg | addReg | subReg
  | shr | subn | shl | sneReg | ldI | jpV0 | skp | sknp | ldVxDt | addI | ldF | ldDt | ldSt =>
    obtain rfl := Host.Outcome.next.inj h
    exact .of_fields

/-- Settles O17: the frame of each instruction, by its own operations. -/
theorem instructionsChangeOnlyTheirParts : Obligations.InstructionsChangeOnlyTheirParts :=
  fun _ _ _ h => exec_frame h

/-! ### The general registers -/

@[simp] theorem State.readV_advance (s : State) (r : Reg) : s.advance.readV r = s.readV r := rfl
@[simp] theorem State.readV_setI (s : State) (w : Word) (r : Reg) : (s.setI w).readV r = s.readV r := rfl
@[simp] theorem State.readV_show (s : State) (fb : Framebuffer) (r : Reg) : (s.show fb).readV r = s.readV r := rfl
@[simp] theorem State.readV_raise (s : State) (f : FaultCode) (w : Word) (r : Reg) :
    (s.raise f w).readV r = s.readV r := rfl

@[simp] theorem State.readV_withDraws (s : State) (n : Nat) (r : Reg) :
    State.readV { s with draws := n } r = s.readV r := rfl

theorem State.readV_guardRange {done : State} {r : Reg} (len : Nat) (h : done.readV r = s.readV r) :
    (s.guardRange len done).readV r = s.readV r := by
  obtain hdone | ⟨info, hraise⟩ := s.guardRange_cases len done
  · rw [hdone, h]
  · rw [hraise, State.readV_raise]

/-- Settles O18: an instruction whose rule names the registers writes its destination or the flag, the others none. -/
theorem registersWrittenOnlyAsListed : Obligations.RegistersWrittenOnlyAsListed := by
  intro i s t r h hr
  cases i with
  | ldImm | addImm | ldReg | orReg | andReg | xorReg | addReg | subReg | shr | subn | shl | ldVxDt =>
    obtain rfl := Host.Outcome.next.inj h
    simp_all [mayWriteReg]
  | rnd x nn =>
    obtain rfl := Host.Outcome.next.inj ((exec_rnd x nn s).symm.trans h)
    simp_all [mayWriteReg]
  | drw x y n =>
    obtain rfl := Host.Outcome.next.inj h
    exact State.readV_guardRange _ (by simp_all [mayWriteReg])
  | ldVxMem x =>
    obtain rfl := Host.Outcome.next.inj h
    exact State.readV_guardRange _ (by simp_all [mayWriteReg])
  | ldVxK x =>
    obtain ⟨-, hwait⟩ | ⟨k, -, hkey⟩ := exec_ldVxK_cases x s
    · rw [Host.Outcome.next.inj (h.symm.trans hwait)]
    · have hrx : r ≠ x := by simpa [mayWriteReg] using hr
      rw [Host.Outcome.next.inj (h.symm.trans hkey), State.readV_advance, State.readV_setV, if_neg hrx]
  | _ => exact exec_frame h .regs (by simp [mayWrite]) r
end Sys2Proof.Machine
end

section
/-! SUPPORT. The proofs about what a STEP raises (spec/60_exceptions.md section 1; spec/10_state.md R13). -/

namespace Sys2Proof.Machine

variable {s t : State} {i : Instr} {f : FaultCode} {info : Word}

/-! ### Which fault an instruction raises -/

/-- The fault of a memory instruction that uses `len` bytes from `I` (R120, R181). -/
def rangeFault (s : State) (len : Nat) : Option (FaultCode × Word) :=
  if len ≠ 0 ∧ memSize < s.i.toNat + len then
    some (.addressOutOfRange, BitVec.ofNat 16 (max s.i.toNat memSize))
  else none

/-- The fault an instruction raises, with its payload (R180 to R184). -/
def faultOf : Instr → State → Option (FaultCode × Word)
  | .sys nnn, _ => some (.unknownOpcode, encodeWord (.sys nnn))
  | .call _, s => if s.sp.val = 16 then some (.stackOverflow, s.pc) else none
  | .ret, s => if s.sp.val = 0 then some (.stackUnderflow, s.pc) else none
  | .drw _ _ n, s => rangeFault s n.val
  | .ldB _, s => rangeFault s 3
  | .ldMemVx x, s => rangeFault s (x.val + 1)
  | .ldVxMem x, s => rangeFault s (x.val + 1)
  | .cls, _ | .jp _, _ | .seImm _ _, _ | .sneImm _ _, _ | .seReg _ _, _ | .ldImm _ _, _ | .addImm _ _, _
  | .ldReg _ _, _ | .orReg _ _, _ | .andReg _ _, _ | .xorReg _ _, _ | .addReg _ _, _ | .subReg _ _, _ | .shr _ _, _
  | .subn _ _, _ | .shl _ _, _ | .sneReg _ _, _ | .ldI _, _ | .jpV0 _, _ | .rnd _ _, _ | .skp _, _ | .sknp _, _
  | .ldVxDt _, _ | .ldVxK _, _ | .ldDt _, _ | .ldSt _, _ | .addI _, _ | .ldF _, _ => none

/-- Whether the instruction signals a redraw when it completes (R150). -/
def showsDisplay : Instr → Bool
  | .cls => true
  | .drw _ _ _ => true
  | _ => false

theorem State.guardRange_of_fault {len : Nat} {done : State} (h : rangeFault s len = some (f, info)) :
    s.guardRange len done = s.raise f info := by
  unfold rangeFault at h
  split at h
  next hout =>
    cases h
    exact State.guardRange_of_exceeds hout.1 hout.2
  next => cases h

theorem State.guardRange_of_no_fault {len : Nat} {done : State} (h : rangeFault s len = none) :
    s.guardRange len done = done := by
  unfold rangeFault at h
  split at h
  next => cases h
  next hin => exact State.guardRange_of_fits (by unfold memSize at *; omega)

theorem exec_call (nnn : BitVec 12) (s : State) :
    exec (.call nnn) s = .next (s.pushAndJump (s.pc + 2) (addressOperand nnn)) := rfl

theorem exec_ret (s : State) : exec .ret s = .next s.popPc := rfl

theorem exec_drw (x y : Reg) (n : Fin 16) (s : State) : exec (.drw x y n) s = .next (s.guardRange n.val
    ((s.show (drwBlit x y n s).1).setFlag (drwBlit x y n s).2).advance) := rfl

theorem exec_ldB (x : Reg) (s : State) : exec (.ldB x) s =
    .next (s.guardRange 3 (s.store s.i.toNat (decimalDigits (s.readV x))).advance) := rfl

theorem exec_ldMemVx (x : Reg) (s : State) : exec (.ldMemVx x) s = .next (s.guardRange (x.val + 1)
    ((s.store s.i.toNat (s.regsUpTo x)).setI (indexAfter build s x)).advance) := rfl

theorem exec_ldVxMem (x : Reg) (s : State) : exec (.ldVxMem x) s = .next (s.guardRange (x.val + 1)
    ((s.loadRegs s.i.toNat x).setI (indexAfter build s x)).advance) := rfl

/-- An instruction with a fault does nothing but raise it (R188). -/
theorem exec_of_fault (h : faultOf i s = some (f, info)) : exec i s = .next (s.raise f info) := by
  cases i with
  | sys nnn =>
    cases h
    rfl
  | call nnn =>
    obtain ⟨hfull, rfl, rfl⟩ : s.sp.val = 16 ∧ _ := by simpa [faultOf] using h
    rw [exec_call, State.pushAndJump_of_full _ _ hfull]
  | ret =>
    obtain ⟨hempty, rfl, rfl⟩ : s.sp.val = 0 ∧ _ := by simpa [faultOf] using h
    rw [exec_ret, State.popPc_of_empty hempty]
  | drw x y n => rw [exec_drw, State.guardRange_of_fault h]
  | ldB x => rw [exec_ldB, State.guardRange_of_fault h]
  | ldMemVx x => rw [exec_ldMemVx, State.guardRange_of_fault h]
  | ldVxMem x => rw [exec_ldVxMem, State.guardRange_of_fault h]
  | _ => cases h

/-- What an instruction that raises no fault does to the latch, `PC` and `redraw`. -/
structure Completes (i : Instr) (s t : State) : Prop where
  fault : t.fault = s.fault
  finfo : t.finfo = s.finfo
  pc : t.pc = pcAfter i s
  redraw : t.redraw = (showsDisplay i || s.redraw)

theorem keys_ne_zero_of_lowestKey {keys : Word} {k : Nat} (h : lowestKey keys = some k) : keys ≠ 0 := by
  rintro rfl
  simpa using (lowestKey_eq_some h).2.1

theorem exec_of_no_fault (h : faultOf i s = none) : ∃ t, exec i s = .next t ∧ Completes i s t := by
  cases i with
  | sys nnn => cases h
  | call nnn =>
    have hroom : s.sp.val < 16 := by
      have hne : s.sp.val ≠ 16 := by simpa [faultOf] using h
      omega
    exact ⟨_, rfl, by rw [State.pushAndJump_of_room _ _ hroom]; exact ⟨rfl, rfl, rfl, rfl⟩⟩
  | ret =>
    have hused : s.sp.val ≠ 0 := by simpa [faultOf] using h
    refine ⟨_, rfl, ?_⟩
    rw [State.popPc_of_used hused]
    refine ⟨rfl, rfl, ?_, rfl⟩
    have hlt : s.sp.val - 1 < 16 := by omega
    simp [pcAfter, hlt]
  | drw | ldB | ldMemVx | ldVxMem =>
    refine ⟨_, rfl, ?_⟩
    rw [State.guardRange_of_no_fault h]
    constructor <;> simp [pcAfter, showsDisplay]
  | ldVxK x =>
    obtain ⟨hkeys, hwait⟩ | ⟨k, hk, hkey⟩ := exec_ldVxK_cases x s
    · exact ⟨s, hwait, rfl, rfl, by simp [pcAfter, hkeys], by simp [showsDisplay]⟩
    · exact ⟨_, hkey, rfl, rfl, (if_neg (keys_ne_zero_of_lowestKey hk)).symm, rfl⟩
  | seImm | sneImm | seReg | sneReg | skp =>
    refine ⟨_, rfl, rfl, rfl, ?_, rfl⟩
    simp [pcAfter, keyDown, lowNibble]
  | sknp x =>
    refine ⟨_, rfl, rfl, rfl, ?_, rfl⟩
    cases hkey : s.keys.getLsbD ((s.readV x).toNat % 16) <;> simp [pcAfter, keyDown, lowNibble, hkey]
  | _ => exact ⟨_, rfl, rfl, rfl, rfl, rfl⟩

/-- The two cases of `exec`: it raises its fault, or it completes. -/
theorem exec_cases (i : Instr) (s : State) :
    (∃ f info, faultOf i s = some (f, info) ∧ exec i s = .next (s.raise f info)) ∨
    (faultOf i s = none ∧ ∃ t, exec i s = .next t ∧ Completes i s t) := by
  cases h : faultOf i s with
  | some p => exact .inl ⟨p.1, p.2, rfl, exec_of_fault h⟩
  | none => exact .inr ⟨rfl, exec_of_no_fault h⟩

theorem faultOf_ne_none (h : faultOf i s = some (f, info)) : f ≠ .none := by
  rintro rfl
  cases i <;> simp [faultOf, rangeFault] at h

/-- Settles O20: no fault is raised, since every fault has a number other than 0, so `PC` is where the table says. -/
theorem pcAdvanceTable : Obligations.PcAdvanceTable := by
  intro i s t _ h ht
  obtain ⟨f, info, hfault, hraise⟩ | ⟨-, u, hu, hdone⟩ := exec_cases i s
  · obtain rfl := Host.Outcome.next.inj (hraise.symm.trans h)
    exact absurd ht (faultOf_ne_none hfault)
  · obtain rfl := Host.Outcome.next.inj (hu.symm.trans h)
    exact hdone.pc

/-! ### Which fault a STEP raises -/

/-- The fault a STEP of a running block raises: in fetch, in decode, or by the instruction (R187). -/
def stepFault (s : State) : Option (FaultCode × Word) :=
  match s.fetch with
  | .error a => some (.addressOutOfRange, BitVec.ofNat 16 a)
  | .ok w =>
    match decodeWord w with
    | .error _ => some (.unknownOpcode, w)
    | .ok i => faultOf i s

theorem stepFault_of_fetch_error {a : Nat} (hf : s.fetch = .error a) :
    stepFault s = some (.addressOutOfRange, BitVec.ofNat 16 a) := by
  unfold stepFault; rw [hf]

theorem stepFault_of_unknown {w : Word} {e : DecodeError} (hf : s.fetch = .ok w) (hd : decodeWord w = .error e) :
    stepFault s = some (.unknownOpcode, w) := by
  unfold stepFault; rw [hf]; simp only [hd]

theorem stepFault_of_decoded {w : Word} (hf : s.fetch = .ok w) (hd : decodeWord w = .ok i) :
    stepFault s = faultOf i s := by
  unfold stepFault; rw [hf]; simp only [hd]

theorem Fetches.stepFault_eq (h : Fetches s i) : stepFault s = faultOf i s := by
  obtain ⟨w, hf, hd⟩ := h
  exact stepFault_of_decoded hf hd

theorem faultOf_beginStep (i : Instr) (s : State) : faultOf i s.beginStep = faultOf i s := by
  cases i <;> rfl

/-- The two cases of a STEP of a running block: it raises its fault, or the instruction it fetched completes. -/
theorem step_running_cases (h : s.fault = .none) :
    (∃ f info, stepFault s = some (f, info) ∧ step s = .next (s.raise f info)) ∨
    (stepFault s = none ∧ ∃ i t, Fetches s i ∧ step s = .next t ∧ exec i s.beginStep = .next t ∧
      Completes i s.beginStep t) := by
  cases hf : s.fetch with
  | error a => exact .inl ⟨_, _, stepFault_of_fetch_error hf, step_of_fetch_error h hf⟩
  | ok w =>
    cases hd : decodeWord w with
    | error e => exact .inl ⟨_, _, stepFault_of_unknown hf hd, step_of_unknown h hf hd⟩
    | ok i =>
      rw [step_of_decoded h hf hd, stepFault_of_decoded hf hd, ← faultOf_beginStep]
      obtain hraise | ⟨hnone, t, ht, hdone⟩ := exec_cases i s.beginStep
      · exact .inl hraise
      · exact .inr ⟨hnone, i, t, ⟨w, hf, hd⟩, ht, ht, hdone⟩

theorem stepFault_ne_none (h : stepFault s = some (f, info)) : f ≠ .none := by
  cases hf : s.fetch with
  | error a =>
    cases (stepFault_of_fetch_error hf).symm.trans h
    decide
  | ok w =>
    cases hd : decodeWord w with
    | error e =>
      cases (stepFault_of_unknown hf hd).symm.trans h
      decide
    | ok i => exact faultOf_ne_none ((stepFault_of_decoded hf hd).symm.trans h)

/-- Settles O8: halted, faulting or completing, a STEP answers a next state. -/
theorem everyStepAnswersANextState : Obligations.EveryStepAnswersANextState := by
  intro s
  by_cases h : s.fault = .none
  · obtain ⟨f, info, -, hraise⟩ | ⟨-, i, t, -, ht, -⟩ := step_running_cases h
    · exact ⟨_, hraise⟩
    · exact ⟨t, ht⟩
  · exact ⟨_, step_of_halted h⟩

/-- The latch after a STEP of a running block tells which of the two cases it took. -/
theorem step_next_cases (h : s.fault = .none) (ht : step s = .next t) :
    (∃ f info, stepFault s = some (f, info) ∧ t = s.raise f info) ∨
    (stepFault s = none ∧ t.fault = .none ∧
      ∃ i, Fetches s i ∧ exec i s.beginStep = .next t ∧ Completes i s.beginStep t) := by
  obtain ⟨f, info, hfault, hraise⟩ | ⟨hnone, i, u, hi, hu, hexec, hdone⟩ := step_running_cases h
  · exact .inl ⟨f, info, hfault, Host.Outcome.next.inj (ht.symm.trans hraise)⟩
  · obtain rfl := Host.Outcome.next.inj (ht.symm.trans hu)
    exact .inr ⟨hnone, hdone.fault.trans h, i, hi, hexec, hdone⟩

/-- Settles O10: a STEP that leaves FAULT nonzero took the case that raises, and that sets the latch only. -/
theorem faultsArePrecise : Obligations.FaultsArePrecise := by
  intro s t h ht hne
  obtain ⟨f, info, -, rfl⟩ | ⟨-, hrun, -⟩ := step_next_cases h ht
  · exact ⟨s.frame_raise f info, rfl⟩
  · exact absurd hrun hne

theorem Fetches.unique {i j : Instr} (hi : Fetches s i) (hj : Fetches s j) : i = j := by
  obtain ⟨w, hw, hi⟩ := hi
  obtain ⟨w', hw', hj⟩ := hj
  obtain rfl := Except.ok.inj (hw.symm.trans hw')
  exact Except.ok.inj (hi.symm.trans hj)

theorem showsDisplay_iff (i : Instr) : showsDisplay i = true ↔ i = .cls ∨ ∃ x y n, i = .drw x y n := by
  cases i <;> simp [showsDisplay]

/-- Settles O12: `redraw` is cleared at the start, and only a display instruction that completes sets it. -/
theorem redrawReportsDisplayInstructions : Obligations.RedrawReportsDisplayInstructions := by
  intro s t ht
  show t.redraw = true ↔ _
  by_cases h : s.fault = .none
  · obtain ⟨f, info, hfault, rfl⟩ | ⟨-, hrun, i, hi, -, hdone⟩ := step_next_cases h ht
    · simp [stepFault_ne_none hfault]
    · rw [hdone.redraw, State.beginStep_redraw, Bool.or_false, showsDisplay_iff]
      simp only [h, hrun, true_and]
      refine ⟨?_, ?_⟩
      · rintro (rfl | ⟨x, y, n, rfl⟩)
        · exact .inl hi
        · exact .inr ⟨x, y, n, hi⟩
      · rintro (hcls | ⟨x, y, n, hdrw⟩)
        · exact .inl (hi.unique hcls)
        · exact .inr ⟨x, y, n, hi.unique hdrw⟩
  · obtain rfl := Host.Outcome.next.inj ((step_of_halted h).symm.trans ht)
    simp [h]

end Sys2Proof.Machine
end

section
/-! SUPPORT. The proofs about the causes and payloads of the faults (spec/60_exceptions.md R180 to R187). -/

namespace Sys2Proof.Machine

variable {s t : State} {i : Instr} {f : FaultCode} {info : Word}

/-! ### Fetch and decode -/

theorem Fetches.fetch_eq (h : Fetches s i) : s.fetch = .ok (encodeWord i) := by
  obtain ⟨w, hw, hd⟩ := h
  rw [hw, (encodeOfDecodeIsTheWord w i hd).1]

theorem Fetches.pc_lt (h : Fetches s i) : s.pc.toNat + 1 < memSize := by
  obtain ⟨w, hw, -⟩ := h
  by_contra hout
  rw [State.fetch_of_outside (by omega)] at hw
  cases hw

theorem toNat_ofNat_max_memSize (w : Word) : (BitVec.ofNat 16 (max w.toNat memSize)).toNat = max w.toNat memSize := by
  rw [BitVec.toNat_ofNat, Nat.mod_eq_of_lt]
  unfold memSize
  omega

/-- Settles O5: the two bytes decode as the word the fetch joins from them. -/
theorem stepRunsTheDecodedInstruction : Obligations.StepRunsTheDecodedInstruction := by
  intro s i h hpc hd
  have hdw : decodeWord (joinBytes (s.mem.read s.pc.toNat) (s.mem.read (s.pc.toNat + 1))) = .ok i := by
    simp only [decode] at hd
    split at hd
    next j hj =>
      cases hd
      exact hj
    next => cases hd
  exact step_of_decoded h (State.fetch_of_inside hpc) hdw

/-- Settles O7: each case is one of the raises of STEP. -/
theorem fetchAndDecodeFaultsSetTheLatch : Obligations.FetchAndDecodeFaultsSetTheLatch := by
  intro s h
  refine ⟨fun hout => ?outside, fun hlast => ?lastByte, fun w e hf hd => step_of_unknown h hf hd⟩
  case outside =>
    rw [step_of_fetch_error h (State.fetch_of_outside (by unfold memSize; omega)), max_eq_left hout,
      BitVec.ofNat_toNat, BitVec.setWidth_eq]
    rfl
  case lastByte =>
    rw [step_of_fetch_error h (State.fetch_of_outside (by unfold memSize; omega)), hlast]
    rfl

/-- Settles O29: SYS has no case without the fault, whose payload is its own word. -/
theorem sysRaisesUnknownOpcode : Obligations.SysRaisesUnknownOpcode := by
  intro nnn s
  refine ⟨_, exec_of_fault (i := .sys nnn) rfl, rfl, ?_, rfl, s.frame_raise _ _⟩
  exact (BitVec.toNat_append (0x0 : BitVec 4) nnn).trans (by simp)

/-! ### Memory instructions out of range -/

theorem rangeFault_of_exceeds {len : Nat} (h0 : len ≠ 0) (h : memSize < s.i.toNat + len) :
    rangeFault s len = some (.addressOutOfRange, BitVec.ofNat 16 (max s.i.toNat memSize)) :=
  if_pos ⟨h0, h⟩

theorem exec_of_rangeFault
    (h : faultOf i s = some (.addressOutOfRange, BitVec.ofNat 16 (max s.i.toNat memSize))) :
    ∃ t, exec i s = .next t ∧ t.fault = .addressOutOfRange ∧ t.finfo.toNat = max s.i.toNat 4096 ∧
      Frame [.latch, .redraw] s t :=
  ⟨_, exec_of_fault h, rfl, toNat_ofNat_max_memSize s.i, s.frame_raise _ _⟩

/-- Settles O43: the four range checks fail, each with the lowest address out of range. -/
theorem memoryInstructionsFaultOutOfRange : Obligations.MemoryInstructionsFaultOutOfRange := by
  intro s x
  refine ⟨fun h => ?ldB, fun h => ?dump, fun h => ?load, fun y n hn h => ?drw⟩
  case ldB => exact exec_of_rangeFault (rangeFault_of_exceeds (by omega) (by unfold memSize; omega))
  case dump => exact exec_of_rangeFault (rangeFault_of_exceeds (by omega) (by unfold memSize; omega))
  case load => exact exec_of_rangeFault (rangeFault_of_exceeds (by omega) (by unfold memSize; omega))
  case drw =>
    have hn0 : n.val ≠ 0 := fun h0 => hn (Fin.ext h0)
    exact exec_of_rangeFault (rangeFault_of_exceeds hn0 (by unfold memSize; omega))

/-! ### The causes of each fault -/

theorem rangeFault_eq_some_iff {len : Nat} : rangeFault s len = some (f, info) ↔
    (len ≠ 0 ∧ memSize < s.i.toNat + len) ∧ f = .addressOutOfRange ∧
      info = BitVec.ofNat 16 (max s.i.toNat memSize) := by
  unfold rangeFault
  split
  next h => simp [h, eq_comm]
  next h => simp [h]

/-- A memory instruction whose bytes do not fit between `I` and the end of memory (R181 cases (c) to (e)). -/
def OutOfRange (i : Instr) (s : State) : Prop :=
  (∃ x y n, i = .drw x y n ∧ n ≠ 0 ∧ 4096 < s.i.toNat + n.val) ∨ (∃ x, i = .ldB x ∧ 4096 < s.i.toNat + 3) ∨
    (∃ x, (i = .ldMemVx x ∨ i = .ldVxMem x) ∧ 4096 ≤ s.i.toNat + x.val)

theorem faultOf_eq_range_iff : faultOf i s = some (.addressOutOfRange, info) ↔
    OutOfRange i s ∧ info = BitVec.ofNat 16 (max s.i.toNat memSize) := by
  unfold OutOfRange
  cases i with
  | drw x y n => simp [faultOf, rangeFault_eq_some_iff]
  | ldB x => simp [faultOf, rangeFault_eq_some_iff]
  | ldMemVx x | ldVxMem x => simp [faultOf, rangeFault_eq_some_iff, ← Nat.add_assoc, Nat.lt_add_one_iff]
  | _ => simp [faultOf]

theorem faultOf_eq_overflow_iff : faultOf i s = some (.stackOverflow, info) ↔
    (∃ nnn, i = .call nnn) ∧ s.sp.val = 16 ∧ info = s.pc := by
  cases i <;> simp [faultOf, rangeFault_eq_some_iff, eq_comm (b := info)]

theorem faultOf_eq_underflow_iff : faultOf i s = some (.stackUnderflow, info) ↔
    i = .ret ∧ s.sp.val = 0 ∧ info = s.pc := by
  cases i <;> simp [faultOf, rangeFault_eq_some_iff, eq_comm (b := info)]

theorem faultOf_eq_unknown_iff : faultOf i s = some (.unknownOpcode, info) ↔
    (∃ nnn, i = .sys nnn) ∧ info = encodeWord i := by
  cases i <;> simp [faultOf, rangeFault_eq_some_iff, eq_comm (b := info)]

theorem faultOf_ne_image : faultOf i s ≠ some (.imageTooLarge, info) := by
  cases i <;> simp [faultOf, rangeFault_eq_some_iff]

/-- The three places a STEP can fault in, in their order (R187). -/
theorem stepFault_eq_some_iff : stepFault s = some (f, info) ↔
    (memSize ≤ s.pc.toNat + 1 ∧ f = .addressOutOfRange ∧ info = BitVec.ofNat 16 (max s.pc.toNat memSize)) ∨
    ((∃ e, s.fetch = .ok info ∧ decodeWord info = .error e) ∧ f = .unknownOpcode) ∨
    (∃ i, Fetches s i ∧ faultOf i s = some (f, info)) := by
  by_cases hpc : s.pc.toNat + 1 < memSize
  · have hin : ¬ memSize ≤ s.pc.toNat + 1 := by omega
    have hf := State.fetch_of_inside hpc
    generalize joinBytes (s.mem.read s.pc.toNat) (s.mem.read (s.pc.toNat + 1)) = w at hf
    cases hd : decodeWord w with
    | error e =>
      have hno : ∀ i, ¬ Fetches s i := fun i ⟨w', hw, hi⟩ => by
        cases hf.symm.trans hw
        cases hd.symm.trans hi
      rw [stepFault_of_unknown hf hd, hf]
      simp only [hin, hno, false_and, exists_false, or_false, false_or]
      constructor
      · intro h
        cases h
        exact ⟨⟨e, rfl, hd⟩, rfl⟩
      · rintro ⟨⟨e', hw, -⟩, rfl⟩
        rw [Except.ok.inj hw]
    | ok i =>
      have hlegal : ∀ e, ¬ (s.fetch = .ok info ∧ decodeWord info = .error e) := fun e ⟨hw, he⟩ => by
        cases hf.symm.trans hw
        cases hd.symm.trans he
      rw [stepFault_of_decoded hf hd]
      simp only [hin, hlegal, false_and, exists_false, false_or]
      exact ⟨fun h => ⟨i, ⟨w, hf, hd⟩, h⟩, fun ⟨j, hj, h⟩ => Fetches.unique hj ⟨w, hf, hd⟩ ▸ h⟩
  · have hf := State.fetch_of_outside (Nat.le_of_not_lt hpc)
    rw [stepFault_of_fetch_error hf]
    simp [Fetches, hf, Nat.le_of_not_lt hpc, eq_comm (b := info), eq_comm (b := f)]

theorem stepFault_range_iff : stepFault s = some (.addressOutOfRange, info) ↔
    (memSize ≤ s.pc.toNat + 1 ∧ info = BitVec.ofNat 16 (max s.pc.toNat memSize)) ∨
    ((∃ i, Fetches s i ∧ OutOfRange i s) ∧ info = BitVec.ofNat 16 (max s.i.toNat memSize)) := by
  simp [stepFault_eq_some_iff, faultOf_eq_range_iff, ← and_assoc]

theorem stepFault_overflow_iff : stepFault s = some (.stackOverflow, info) ↔
    ((∃ nnn, Fetches s (.call nnn)) ∧ s.sp.val = 16) ∧ info = s.pc := by
  simp [stepFault_eq_some_iff, faultOf_eq_overflow_iff, and_assoc]

theorem stepFault_underflow_iff : stepFault s = some (.stackUnderflow, info) ↔
    (Fetches s .ret ∧ s.sp.val = 0) ∧ info = s.pc := by
  simp [stepFault_eq_some_iff, faultOf_eq_underflow_iff, and_assoc]

theorem stepFault_unknown_iff : stepFault s = some (.unknownOpcode, info) ↔
    ((∃ w e, s.fetch = .ok w ∧ decodeWord w = .error e) ∨ (∃ nnn, Fetches s (.sys nnn))) ∧ s.fetch = .ok info := by
  rw [stepFault_eq_some_iff]
  constructor
  · rintro (⟨-, hf, -⟩ | ⟨⟨e, hw, he⟩, -⟩ | ⟨i, hi, h⟩)
    · cases hf
    · exact ⟨.inl ⟨info, e, hw, he⟩, hw⟩
    · obtain ⟨⟨nnn, rfl⟩, rfl⟩ := faultOf_eq_unknown_iff.mp h
      exact ⟨.inr ⟨nnn, hi⟩, hi.fetch_eq⟩
  · rintro ⟨⟨w, e, hw, he⟩ | ⟨nnn, hi⟩, hinfo⟩
    · obtain rfl := Except.ok.inj (hw.symm.trans hinfo)
      exact .inr (.inl ⟨⟨e, hw, he⟩, rfl⟩)
    · obtain rfl := Except.ok.inj (hi.fetch_eq.symm.trans hinfo)
      exact .inr (.inr ⟨_, hi, faultOf_eq_unknown_iff.mpr ⟨⟨nnn, rfl⟩, rfl⟩⟩)

theorem stepFault_ne_image : stepFault s ≠ some (.imageTooLarge, info) := by
  simp [Ne, stepFault_eq_some_iff, faultOf_ne_image]

/-- The latch a STEP leaves holds the fault it raised, if any. -/
theorem step_fault_iff (h : s.fault = .none) (ht : step s = .next t) (hf : f ≠ .none) :
    t.fault = f ↔ ∃ info, stepFault s = some (f, info) := by
  obtain ⟨g, info, hfault, rfl⟩ | ⟨hnone, hrun, -⟩ := step_next_cases h ht
  · simp [hfault]
  · simp [hnone, hrun, hf.symm]

theorem stepFault_of_step_fault (h : s.fault = .none) (ht : step s = .next t) (hf : t.fault ≠ .none) :
    stepFault s = some (t.fault, t.finfo) := by
  obtain ⟨g, info, hfault, rfl⟩ | ⟨hnone, hrun, -⟩ := step_next_cases h ht
  · exact hfault
  · exact absurd hrun hf

theorem exists_outOfRange_iff : (∃ i, Fetches s i ∧ OutOfRange i s) ↔
    (∃ x y n, Fetches s (.drw x y n) ∧ n ≠ 0 ∧ 4096 < s.i.toNat + n.val) ∨
    (∃ x, Fetches s (.ldB x) ∧ 4096 < s.i.toNat + 3) ∨
    (∃ x, (Fetches s (.ldMemVx x) ∨ Fetches s (.ldVxMem x)) ∧ 4096 ≤ s.i.toNat + x.val) := by
  constructor
  · rintro ⟨i, hi, ⟨x, y, n, rfl, hn, hlen⟩ | ⟨x, rfl, hlen⟩ | ⟨x, rfl | rfl, hlen⟩⟩
    · exact .inl ⟨x, y, n, hi, hn, hlen⟩
    · exact .inr (.inl ⟨x, hi, hlen⟩)
    · exact .inr (.inr ⟨x, .inl hi, hlen⟩)
    · exact .inr (.inr ⟨x, .inr hi, hlen⟩)
  · rintro (⟨x, y, n, hi, hn, hlen⟩ | ⟨x, hi, hlen⟩ | ⟨x, hi | hi, hlen⟩)
    · exact ⟨_, hi, .inl ⟨x, y, n, rfl, hn, hlen⟩⟩
    · exact ⟨_, hi, .inr (.inl ⟨x, rfl, hlen⟩)⟩
    · exact ⟨_, hi, .inr (.inr ⟨x, .inl rfl, hlen⟩)⟩
    · exact ⟨_, hi, .inr (.inr ⟨x, .inr rfl, hlen⟩)⟩

/-- Settles O11: the latch is the fault of the STEP, and each code's causes and payload are read off `stepFault`. -/
theorem faultsHaveExactlyTheirCauses : Obligations.FaultsHaveExactlyTheirCauses := by
  intro s t h ht
  have hpayload : ∀ {f}, f ≠ .none → t.fault = f → stepFault s = some (f, t.finfo) := by
    rintro _ hf rfl
    exact stepFault_of_step_fault h ht hf
  refine ⟨?range, ?overflow, ?underflow, ?unknown, ?image, fun hf hpc => ?fetchInfo, fun hf hpc => ?indexInfo,
    fun hf => (stepFault_overflow_iff.mp (hpayload (by decide) hf)).2,
    fun hf => (stepFault_underflow_iff.mp (hpayload (by decide) hf)).2,
    fun hf => (stepFault_unknown_iff.mp (hpayload (by decide) hf)).2⟩
  case range =>
    rw [step_fault_iff h ht (by decide), ← exists_outOfRange_iff]
    simp only [stepFault_range_iff, exists_or, exists_and_left, exists_eq, and_true]
  case overflow =>
    rw [step_fault_iff h ht (by decide)]
    simp only [stepFault_overflow_iff, exists_and_left, exists_eq, and_true]
  case underflow =>
    rw [step_fault_iff h ht (by decide)]
    simp only [stepFault_underflow_iff, exists_and_left, exists_eq, and_true]
  case unknown =>
    rw [step_fault_iff h ht (by decide)]
    simp only [stepFault_unknown_iff]
    rw [exists_and_left]
    refine and_iff_left_of_imp ?_
    rintro (⟨w, e, hw, -⟩ | ⟨nnn, hi⟩)
    · exact ⟨w, hw⟩
    · exact ⟨_, hi.fetch_eq⟩
  case image => exact fun hf => stepFault_ne_image (hpayload (by decide) hf)
  case fetchInfo =>
    obtain ⟨-, hinfo⟩ | ⟨⟨i, hi, -⟩, -⟩ := stepFault_range_iff.mp (hpayload (by decide) hf)
    · rw [hinfo, toNat_ofNat_max_memSize]
    · exact absurd hi.pc_lt (Nat.not_lt.mpr hpc)
  case indexInfo =>
    obtain ⟨hout, -⟩ | ⟨-, hinfo⟩ := stepFault_range_iff.mp (hpayload (by decide) hf)
    · exact absurd hpc (Nat.not_lt.mpr hout)
    · rw [hinfo, toNat_ofNat_max_memSize]

end Sys2Proof.Machine
end

section
/-! SUPPORT. The proofs about the invariant and the halted block (spec/10_state.md R14, R30; spec/60_exceptions.md R189). -/

namespace Sys2Proof.Machine

variable {s t : State} {i : Instr} {f : FaultCode} {info : Word}

/-! ### The canonical form of memory -/

theorem Memory.read_cons (k : Nat) (b : Byte) (m : Memory) (a : Nat) :
    Memory.read ((k, b) :: m) a = if a = k then b else m.read a := rfl

theorem Memory.wfFrom_cons_iff {lo k : Nat} {b : Byte} {m : Memory} : Memory.wfFrom lo ((k, b) :: m) = true ↔
    lo ≤ k ∧ k < memSize ∧ b ≠ Memory.background k ∧ Memory.wfFrom (k + 1) m = true := by
  simp [Memory.wfFrom, and_assoc]

/-- Nothing is listed below the bound. -/
theorem Memory.read_below {lo a : Nat} {m : Memory} (h : Memory.wfFrom lo m = true) (ha : a < lo) :
    m.read a = Memory.background a := by
  induction m generalizing lo with
  | nil => rfl
  | cons cell m ih =>
    obtain ⟨k, b⟩ := cell
    obtain ⟨hlo, -, -, htail⟩ := Memory.wfFrom_cons_iff.mp h
    rw [Memory.read_cons, if_neg (by omega), ih htail (by omega)]

/-- A list that reads as another does cannot begin above its first cell: it would read the background there. -/
theorem Memory.not_wfFrom_above_head {lo k : Nat} {b : Byte} {m m' : Memory}
    (h : Memory.wfFrom lo ((k, b) :: m) = true) (hread : ∀ a < memSize, Memory.read ((k, b) :: m) a = m'.read a) :
    Memory.wfFrom (k + 1) m' ≠ true := by
  obtain ⟨-, hk, hb, -⟩ := Memory.wfFrom_cons_iff.mp h
  intro hm'
  apply hb
  rw [← Memory.read_below hm' k.lt_succ_self, ← hread k hk, Memory.read_cons, if_pos rfl]

theorem Memory.eq_of_read_eq {lo lo' : Nat} {m m' : Memory} (h : Memory.wfFrom lo m = true)
    (h' : Memory.wfFrom lo' m' = true) (hread : ∀ a < memSize, m.read a = m'.read a) : m = m' := by
  induction m generalizing lo lo' m' with
  | nil =>
    cases m' with
    | nil => rfl
    | cons cell' m' => exact absurd rfl (Memory.not_wfFrom_above_head h' fun a ha => (hread a ha).symm)
  | cons cell m ih =>
    obtain ⟨k, b⟩ := cell
    cases m' with
    | nil => exact absurd rfl (Memory.not_wfFrom_above_head h hread)
    | cons cell' m' =>
      obtain ⟨k', b'⟩ := cell'
      have hle := Memory.not_wfFrom_above_head h hread
      have hle' := Memory.not_wfFrom_above_head h' fun a ha => (hread a ha).symm
      obtain ⟨-, hk, hb, htail⟩ := Memory.wfFrom_cons_iff.mp h
      obtain ⟨-, hk', hb', htail'⟩ := Memory.wfFrom_cons_iff.mp h'
      obtain rfl : k = k' := by
        by_contra hne
        rcases Nat.lt_or_gt_of_ne hne with hlt | hlt
        · exact hle (Memory.wfFrom_cons_iff.mpr ⟨hlt, hk', hb', htail'⟩)
        · exact hle' (Memory.wfFrom_cons_iff.mpr ⟨hlt, hk, hb, htail⟩)
      obtain rfl : b = b' := by simpa [Memory.read_cons] using hread k hk
      have htails : ∀ a < memSize, Memory.read m a = Memory.read m' a := by
        intro a ha
        by_cases hak : a = k
        · rw [hak, Memory.read_below htail k.lt_succ_self, Memory.read_below htail' k.lt_succ_self]
        · simpa [Memory.read_cons, hak] using hread a ha
      rw [ih htail htail' htails]

/-- Settles O16: the lists are compared cell by cell from the lowest address. -/
theorem memoryFormIsCanonical : Obligations.MemoryFormIsCanonical :=
  fun _ _ h h' hread => Memory.eq_of_read_eq h h' hread

/-! ### What completing an instruction keeps -/

@[simp] theorem State.pushAndJump_mem (s : State) (ret target : Word) : (s.pushAndJump ret target).mem = s.mem := by
  unfold State.pushAndJump; split <;> rfl

@[simp] theorem State.popPc_mem (s : State) : s.popPc.mem = s.mem := by
  unfold State.popPc; split <;> rfl

theorem rangeFault_eq_none_iff {len : Nat} : rangeFault s len = none ↔ len = 0 ∨ s.i.toNat + len ≤ memSize := by
  unfold rangeFault
  split
  next h => simpa using h
  next h => simpa [or_iff_not_imp_left] using h

@[simp] theorem length_decimalDigits (b : Byte) : (decimalDigits b).length = 3 := rfl

theorem exec_mem_wf (hwf : s.mem.wf = true) (hf : faultOf i s = none) (h : exec i s = .next t) : t.mem.wf = true := by
  cases i with
  | ldB x =>
    obtain rfl := Host.Outcome.next.inj h
    rw [State.guardRange_of_no_fault hf]
    have hfits := rangeFault_eq_none_iff.mp hf
    exact Memory.wf_writeBytes hwf (by simpa using hfits)
  | ldMemVx x =>
    obtain rfl := Host.Outcome.next.inj h
    rw [State.guardRange_of_no_fault hf]
    have hfits := rangeFault_eq_none_iff.mp hf
    exact Memory.wf_writeBytes hwf (by simpa using hfits)
  | ldVxMem | drw =>
    obtain rfl := Host.Outcome.next.inj h
    rw [State.guardRange_of_no_fault hf]
    simpa using hwf
  | ldVxK x =>
    obtain ⟨-, hwait⟩ | ⟨k, -, hkey⟩ := exec_ldVxK_cases x s
    · exact Host.Outcome.next.inj (hwait.symm.trans h) ▸ hwf
    · exact Host.Outcome.next.inj (hkey.symm.trans h) ▸ hwf
  | call | ret =>
    obtain rfl := Host.Outcome.next.inj h
    simpa using hwf
  | _ =>
    obtain rfl := Host.Outcome.next.inj h
    exact hwf

/-- The return addresses in use are such as a CALL can push (R82). -/
def State.ReturnsOk (s : State) : Prop :=
  ∀ k : Fin 16, k.val < s.sp.val → 2 ≤ (s.stack[k]).toNat ∧ (s.stack[k]).toNat ≤ 0x1000

/-- "The largest value any rule can give `PC` is 0x10FE" (R14), by JP V0. -/
theorem pcAfter_le (hpc : s.pc.toNat + 1 < memSize) (hret : s.ReturnsOk) (hf : faultOf i s = none) :
    (pcAfter i s).toNat ≤ 0x10FE := by
  have h2 : (s.pc + 2).toNat ≤ 0x10FE := by unfold memSize at hpc; bv_omega
  have h4 : (s.pc + 4).toNat ≤ 0x10FE := by unfold memSize at hpc; bv_omega
  have h0 : s.pc.toNat ≤ 0x10FE := by unfold memSize at hpc; omega
  cases i with
  | sys => cases hf
  | jp nnn | call nnn =>
    have := nnn.isLt
    simp only [pcAfter, BitVec.toNat_setWidth]
    omega
  | jpV0 nnn =>
    have := nnn.isLt
    have := (s.readV 0).isLt
    simp only [pcAfter, BitVec.toNat_add, BitVec.toNat_setWidth]
    omega
  | ret =>
    have hused : s.sp.val ≠ 0 := by simpa [faultOf] using hf
    have htop := hret ⟨s.sp.val - 1, by omega⟩ (by simp; omega)
    have hlt : s.sp.val - 1 < 16 := by omega
    simp [pcAfter, hlt] at htop ⊢
    omega
  | seImm | sneImm | seReg | sneReg | skp | sknp | ldVxK =>
    simp only [pcAfter]
    split <;> assumption
  | _ => exact h2

theorem exec_returnsOk (hpc : s.pc.toNat + 1 < memSize) (hret : s.ReturnsOk) (hf : faultOf i s = none)
    (h : exec i s = .next t) : t.ReturnsOk := by
  intro k hk
  cases i with
  | call nnn =>
    obtain rfl := Host.Outcome.next.inj h
    have hroom : s.sp.val < 16 := by
      have hne : s.sp.val ≠ 16 := by simpa [faultOf] using hf
      omega
    have hsp : (s.pushAndJump (s.pc + 2) (addressOperand nnn)).sp.val = s.sp.val + 1 := by
      rw [State.pushAndJump_of_room _ _ hroom]
    have hpush : 2 ≤ (s.pc + 2).toNat ∧ (s.pc + 2).toNat ≤ 0x1000 := by
      unfold memSize at hpc
      constructor <;> bv_omega
    rw [State.stack_pushAndJump_of_room _ _ hroom]
    split
    next => exact hpush
    next hne => exact hret k (by omega)
  | ret =>
    obtain rfl := Host.Outcome.next.inj h
    have hused : s.sp.val ≠ 0 := by simpa [faultOf] using hf
    rw [State.popPc_of_used hused] at hk ⊢
    exact hret k (Nat.lt_of_lt_of_le hk (Nat.sub_le _ _))
  | _ =>
    obtain ⟨hsp, hstack⟩ := exec_frame h .stack (by simp [mayWrite])
    rw [hstack]
    exact hret k (hsp ▸ hk)

/-! ### The latch -/

theorem latchOk_raise (h : stepFault s = some (f, info)) : (s.raise f info).LatchOk := by
  cases f with
  | none => exact absurd rfl (stepFault_ne_none h)
  | addressOutOfRange =>
    refine ⟨?_, rfl⟩
    obtain ⟨-, hinfo⟩ | ⟨-, hinfo⟩ := stepFault_range_iff.mp h
    · rw [State.raise_finfo, hinfo, toNat_ofNat_max_memSize]
      exact le_max_right _ _
    · rw [State.raise_finfo, hinfo, toNat_ofNat_max_memSize]
      exact le_max_right _ _
  | stackOverflow =>
    obtain ⟨⟨-, hfull⟩, hinfo⟩ := stepFault_overflow_iff.mp h
    exact ⟨hinfo, hfull, rfl⟩
  | stackUnderflow =>
    obtain ⟨⟨-, hempty⟩, hinfo⟩ := stepFault_underflow_iff.mp h
    exact ⟨hinfo, hempty, rfl⟩
  | unknownOpcode =>
    obtain ⟨-, hinfo⟩ := stepFault_unknown_iff.mp h
    exact ⟨hinfo, rfl⟩
  | imageTooLarge => exact absurd h stepFault_ne_image

theorem State.LatchOk.finfo_eq_zero (h : s.LatchOk) (hf : s.fault = .none) : s.finfo = 0 := by
  unfold State.LatchOk at h
  rwa [hf] at h

theorem latchOk_of_running (hf : s.fault = .none) (hinfo : s.finfo = 0) : s.LatchOk := by
  unfold State.LatchOk
  rwa [hf]

/-- A halted state of the invariant has no redraw to clear. -/
theorem State.LatchOk.redraw_of_halted (h : s.LatchOk) (hf : s.fault ≠ .none) : s.redraw = false := by
  unfold State.LatchOk at h
  split at h
  · contradiction
  all_goals simp_all

theorem State.beginStep_of_no_redraw (h : s.redraw = false) : s.beginStep = s := by
  cases s
  cases h
  rfl

/-! ### Every operation of the host -/

/-- Settles O14: halted nothing changes, a fault sets the latch only, and what completes keeps each clause. -/
theorem stepKeepsTheInvariant : Obligations.StepKeepsTheInvariant := by
  intro s t hinv ht
  obtain ⟨hmem, hpc, hret, hlatch⟩ := hinv
  by_cases h : s.fault = .none
  · obtain ⟨f, info, hfault, rfl⟩ | ⟨hnone, hrun, i, hi, hexec, hdone⟩ := step_next_cases h ht
    · exact ⟨hmem, hpc, hret, latchOk_raise hfault⟩
    · have hf : faultOf i s.beginStep = none := by rw [faultOf_beginStep, ← hi.stepFault_eq, hnone]
      refine ⟨exec_mem_wf (s := s.beginStep) hmem hf hexec, ?_,
        exec_returnsOk (s := s.beginStep) hi.pc_lt hret hf hexec, ?_⟩
      · rw [hdone.pc]
        exact pcAfter_le hi.pc_lt hret hf
      · exact latchOk_of_running hrun (hdone.finfo.trans (hlatch.finfo_eq_zero h))
  · obtain rfl := Host.Outcome.next.inj ((step_of_halted h).symm.trans ht)
    rw [State.beginStep_of_no_redraw (hlatch.redraw_of_halted h)]
    exact ⟨hmem, hpc, hret, hlatch⟩

/-- Settles O13: memory lists nothing, no return address is in use, and the block runs. -/
theorem resetMeetsTheInvariant : Obligations.ResetMeetsTheInvariant where
  memory := Memory.wf_reset
  pcBound := by decide
  returns _ hk := absurd hk (Nat.not_lt_zero _)
  latch := latchOk_of_running rfl rfl

theorem resetWith_inv (image : List Byte) (s : State) : (s.resetWith image).Inv := by
  obtain ⟨hmem, hpc, hret, -⟩ := resetMeetsTheInvariant
  unfold State.resetWith
  split
  next hfits =>
    have hroom : progBase + image.length ≤ memSize := by
      unfold imageMax at hfits
      unfold progBase memSize
      omega
    exact ⟨Memory.wf_writeBytes rfl hroom, hpc, hret, latchOk_of_running rfl rfl⟩
  next hlong =>
    refine ⟨hmem, hpc, hret, ?_, rfl⟩
    show imageMax < (BitVec.ofNat 16 (min image.length 65535)).toNat
    unfold imageMax at *
    rw [BitVec.toNat_ofNat]
    omega

theorem tick_inv (h : s.Inv) : s.tick.Inv := by
  unfold State.tick
  split
  · exact ⟨h.memory, h.pcBound, h.returns, h.latch⟩
  · exact h

theorem setKeys_inv (mask : Word) (h : s.Inv) : (s.setKeys mask).Inv := by
  unfold State.setKeys
  split
  · exact ⟨h.memory, h.pcBound, h.returns, h.latch⟩
  · exact h

theorem perform_inv (o : HostOp) (h : s.Inv) : ∃ t, perform o s = .next t ∧ t.Inv := by
  cases o with
  | reset image => exact ⟨_, rfl, resetWith_inv image s⟩
  | step =>
    obtain ⟨t, ht⟩ := everyStepAnswersANextState s
    exact ⟨t, ht, stepKeepsTheInvariant s t h ht⟩
  | tick => exact ⟨_, rfl, tick_inv h⟩
  | setKeys mask => exact ⟨_, rfl, setKeys_inv mask h⟩

theorem runOps_cons {o : HostOp} (os : List HostOp) (h : perform o s = .next t) : runOps (o :: os) s = runOps os t := by
  simp only [runOps, h]

/-- Settles O15: by induction on the operations. -/
theorem hostOperationsKeepTheInvariant : Obligations.HostOperationsKeepTheInvariant := by
  intro ops
  induction ops with
  | nil => exact fun s h => ⟨s, rfl, h⟩
  | cons o os ih =>
    intro s h
    obtain ⟨t, ht, hinv⟩ := perform_inv o h
    rw [runOps_cons os ht]
    exact ih t hinv

/-! ### The halted block -/

theorem tick_of_halted (h : s.fault ≠ .none) : s.tick = s := if_neg h

theorem setKeys_of_halted (mask : Word) (h : s.fault ≠ .none) : s.setKeys mask = s := if_neg h

theorem perform_of_halted {o : HostOp} (h : s.fault ≠ .none) (hredraw : s.redraw = false)
    (ho : ∀ image, o ≠ .reset image) : perform o s = .next s := by
  cases o with
  | reset image => exact absurd rfl (ho image)
  | step => exact (step_of_halted h).trans (congrArg _ (State.beginStep_of_no_redraw hredraw))
  | tick => exact congrArg _ (tick_of_halted h)
  | setKeys mask => exact congrArg _ (setKeys_of_halted mask h)

/-- Settles O9: by induction on the operations, none of which changes the state. -/
theorem haltedUntilReset : Obligations.HaltedUntilReset := by
  intro ops s h hredraw
  induction ops with
  | nil => exact fun _ => rfl
  | cons o os ih =>
    intro hno
    have ho : ∀ image, o ≠ .reset image := fun image heq => hno image (heq ▸ List.mem_cons_self)
    rw [runOps_cons os (perform_of_halted h hredraw ho)]
    exact ih fun image hmem => hno image (List.mem_cons_of_mem o hmem)

end Sys2Proof.Machine
end

section
/-! SUPPORT. The proofs about control transfer (spec/40_control_flow.md). -/

namespace Sys2Proof.Machine

variable {s t : State}

/-! ### Jumps -/

theorem toNat_addressOperand (nnn : BitVec 12) : (addressOperand nnn).toNat = nnn.toNat := by
  have := nnn.isLt
  rw [addressOperand, BitVec.toNat_setWidth, Nat.mod_eq_of_lt (by omega)]

/-- Settles O22: the jump writes `PC` only. -/
theorem jpGoesToItsAddress : Obligations.JpGoesToItsAddress :=
  fun nnn _ => ⟨_, rfl, toNat_addressOperand nnn, exec_frame (i := .jp nnn) rfl⟩

/-- Settles O23: the sum is at most 0xFFF + 0xFF, so it does not wrap. -/
theorem jpV0AddsV0Unreduced : Obligations.JpV0AddsV0Unreduced := by
  intro nnn s
  refine ⟨_, rfl, ?_, exec_frame (i := .jpV0 nnn) rfl⟩
  show (addressOperand nnn + (s.readV 0).setWidth 16).toNat = _
  have := nnn.isLt
  have := (s.readV 0).isLt
  rw [BitVec.toNat_add, toNat_addressOperand, BitVec.toNat_setWidth]
  omega

/-! ### Skips -/

/-- Settles O28: each skip tests the comparison of its two bytes. -/
theorem skipsCompareRegisters : Obligations.SkipsCompareRegisters := by
  intro s
  refine ⟨fun x nn => ⟨_, rfl, ?_, exec_frame (i := .seImm x nn) rfl⟩,
    fun x nn => ⟨_, rfl, ?_, exec_frame (i := .sneImm x nn) rfl⟩,
    fun x y => ⟨_, rfl, ?_, exec_frame (i := .seReg x y) rfl⟩,
    fun x y => ⟨_, rfl, ?_, exec_frame (i := .sneReg x y) rfl⟩⟩
  all_goals simp

/-! ### CALL and RET -/

theorem State.sp_pushAndJump_of_room (ret target : Word) (h : s.sp.val < 16) :
    (s.pushAndJump ret target).sp.val = s.sp.val + 1 := by
  rw [State.pushAndJump_of_room ret target h]

theorem State.pc_pushAndJump_of_room (ret target : Word) (h : s.sp.val < 16) :
    (s.pushAndJump ret target).pc = target := by
  rw [State.pushAndJump_of_room ret target h]

/-- Settles O24: with room CALL pushes and jumps, without it raises. -/
theorem callPushesTheReturnAddress : Obligations.CallPushesTheReturnAddress := by
  intro nnn s
  refine ⟨fun hroom => ⟨_, rfl, State.stack_pushAndJump_of_room _ _ hroom, State.sp_pushAndJump_of_room _ _ hroom, ?_,
    State.frame_pushAndJump_of_room _ _ hroom⟩, fun hfull => ⟨_, exec_of_fault (i := .call nnn) (if_pos hfull), rfl,
    s.frame_raise _ _⟩⟩
  rw [State.pc_pushAndJump_of_room _ _ hroom, toNat_addressOperand]

/-- Settles O25: with an address on the stack RET pops it, without it raises. -/
theorem retPopsThePc : Obligations.RetPopsThePc := by
  intro s
  refine ⟨fun hused => ⟨s.popPc, rfl, ?_⟩, fun hempty => ⟨_, exec_of_fault (i := .ret) (if_pos hempty), rfl,
    s.frame_raise _ _⟩⟩
  have hframe := State.frame_popPc_of_used hused
  rw [State.popPc_of_used hused] at hframe ⊢
  refine ⟨Nat.sub_add_cancel (Nat.pos_of_ne_zero hused), fun k hk => ?_, fun _ => rfl, hframe⟩
  simp [← hk]

theorem execAll_cons {i : Instr} (is : List Instr) (h : exec i s = .next t) : execAll (i :: is) s = execAll is t := by
  simp only [execAll, h]

/-- Settles O26: the RET finds the slot the CALL wrote, just below the stack pointer it left. -/
theorem retReturnsAfterItsCall : Obligations.RetReturnsAfterItsCall := by
  intro nnn s hroom
  have hsp := State.sp_pushAndJump_of_room (s.pc + 2) (addressOperand nnn) hroom
  have hstack := State.stack_pushAndJump_of_room (s.pc + 2) (addressOperand nnn) hroom
  have hframe := State.frame_pushAndJump_of_room (s.pc + 2) (addressOperand nnn) hroom
  obtain ⟨t, ht, htsp, htpc, htstack, htframe⟩ :=
    (retPopsThePc (s.pushAndJump (s.pc + 2) (addressOperand nnn))).1 (by omega)
  rw [execAll_cons _ (exec_call nnn s), execAll_cons _ ht]
  refine ⟨t, rfl, ?_, Fin.ext (by omega), fun k hk => ?_, hframe.trans htframe⟩
  · rw [htpc ⟨s.sp.val, hroom⟩ hsp.symm, hstack, if_pos rfl]
  · rw [htstack, hstack, if_neg (by omega)]

/-! ### Nested CALLs -/

theorem exec_call_of_room (nnn : BitVec 12) (hroom : s.sp.val < 16) :
    ∃ t, exec (.call nnn) s = .next t ∧ t.fault = s.fault ∧ t.sp.val = s.sp.val + 1 := by
  have hframe := State.frame_pushAndJump_of_room (s.pc + 2) (addressOperand nnn) hroom
  exact ⟨_, rfl, (hframe .latch (by decide)).1, State.sp_pushAndJump_of_room _ _ hroom⟩

theorem execAll_calls_of_room (targets : List (BitVec 12)) (h : s.fault = .none)
    (hroom : s.sp.val + targets.length ≤ 16) :
    ∃ t, execAll (targets.map .call) s = .next t ∧ t.fault = .none ∧ t.sp.val = s.sp.val + targets.length := by
  induction targets generalizing s with
  | nil => exact ⟨s, rfl, h, rfl⟩
  | cons nnn targets ih =>
    rw [List.length_cons] at hroom
    obtain ⟨t, ht, hfault, hsp⟩ := exec_call_of_room (s := s) nnn (by omega)
    obtain ⟨u, hu, hufault, husp⟩ := ih (s := t) (hfault.trans h) (by omega)
    exact ⟨u, (execAll_cons _ ht).trans hu, hufault, by rw [husp, hsp, List.length_cons]; omega⟩

/-- One CALL too many: those before it fill the stack, the last raises. -/
theorem execAll_calls_overflow (targets : List (BitVec 12)) (h : s.fault = .none)
    (hlen : s.sp.val + targets.length = 17) :
    ∃ t, execAll (targets.map .call) s = .next t ∧ t.fault = .stackOverflow ∧ t.sp.val = 16 := by
  induction targets generalizing s with
  | nil =>
    rw [List.length_nil] at hlen
    omega
  | cons nnn targets ih =>
    rw [List.length_cons] at hlen
    by_cases hfull : s.sp.val = 16
    · obtain rfl : targets = [] := List.length_eq_zero_iff.mp (by omega)
      exact ⟨_, execAll_cons [] (exec_of_fault (i := .call nnn) (if_pos hfull)), rfl, hfull⟩
    · obtain ⟨t, ht, hfault, hsp⟩ := exec_call_of_room (s := s) nnn (by omega)
      rw [List.map_cons, execAll_cons _ ht]
      exact ih (hfault.trans h) (by omega)

/-- Settles O27: sixteen CALLs fill the empty stack. -/
theorem sixteenCallsNestAndSeventeenOverflow : Obligations.SixteenCallsNestAndSeventeenOverflow := by
  intro targets s h hempty
  refine ⟨fun hlen => ?_, fun hlen => execAll_calls_overflow targets h (by omega)⟩
  obtain ⟨t, ht, hfault, hsp⟩ := execAll_calls_of_room targets h (by omega)
  exact ⟨t, ht, hfault, by omega⟩

end Sys2Proof.Machine
end

section
/-! SUPPORT. The proofs about keys, timers and random (spec/44_keys_timers_random.md; spec/10_state.md R34, R35). -/

namespace Sys2Proof.Machine

variable {s t : State}

/-! ### Keys -/

/-- The range check does not read the keys. -/
theorem State.guardRange_withKeys (s : State) {done done' : State} (len : Nat) {mask : Word}
    (hdone : done' = { done with keys := mask }) :
    State.guardRange { s with keys := mask } len done' = { s.guardRange len done with keys := mask } := by
  subst hdone
  cases h : rangeFault s len with
  | some p =>
    rw [State.guardRange_of_fault h, State.guardRange_of_fault (s := { s with keys := mask }) h]
    rfl
  | none => rw [State.guardRange_of_no_fault h, State.guardRange_of_no_fault (s := { s with keys := mask }) h]

theorem State.pushAndJump_withKeys (s : State) (ret target mask : Word) :
    State.pushAndJump { s with keys := mask } ret target = { s.pushAndJump ret target with keys := mask } := by
  unfold State.pushAndJump
  split <;> rfl

theorem State.popPc_withKeys (s : State) (mask : Word) :
    State.popPc { s with keys := mask } = { s.popPc with keys := mask } := by
  unfold State.popPc
  split <;> rfl

/-- Settles O21: no operation of the other instructions reads the keys. -/
theorem otherInstructionsIgnoreTheKeys : Obligations.OtherInstructionsIgnoreTheKeys := by
  intro i s t mask hkeys h
  cases i with
  | skp | sknp | ldVxK => cases hkeys
  | call nnn =>
    obtain rfl := Host.Outcome.next.inj h
    exact congrArg _ (s.pushAndJump_withKeys _ _ mask)
  | ret =>
    obtain rfl := Host.Outcome.next.inj h
    exact congrArg _ (s.popPc_withKeys mask)
  | drw | ldB | ldMemVx | ldVxMem =>
    obtain rfl := Host.Outcome.next.inj h
    exact congrArg Host.Outcome.next (State.guardRange_withKeys s _ (by rfl))
  | _ =>
    obtain rfl := Host.Outcome.next.inj h
    rfl

/-- Settles O47: the key is the one the low nibble of `V[x]` names. -/
theorem keySkipsTestTheNamedKey : Obligations.KeySkipsTestTheNamedKey := by
  intro x s
  refine ⟨⟨_, rfl, rfl, exec_frame (i := .skp x) rfl⟩, ⟨_, rfl, ?_, exec_frame (i := .sknp x) rfl⟩⟩
  cases hkey : s.keys.getLsbD ((s.readV x).toNat % 16) <;> simp [keyDown, lowNibble, hkey]

/-- Settles O48: the two cases of LD Vx,K. -/
theorem waitForKeyTakesTheLeastKey : Obligations.WaitForKeyTakesTheLeastKey := by
  intro x s
  obtain ⟨hkeys, hwait⟩ | ⟨k, hk, hkey⟩ := exec_ldVxK_cases x s
  · exact ⟨fun _ => hwait, fun hne => absurd hkeys hne⟩
  · obtain ⟨hlt, hdown, hleast⟩ := lowestKey_eq_some hk
    refine ⟨fun hkeys => absurd hkeys (keys_ne_zero_of_lowestKey hk), fun _ => ⟨_, hkey, ⟨k, hlt, hdown, hleast, ?_⟩,
      fun r hr => ?_, rfl, exec_frame hkey⟩⟩
    · rw [State.readV_advance, State.readV_setV, if_pos rfl, BitVec.toNat_ofNat, Nat.mod_eq_of_lt (by omega)]
    · rw [State.readV_advance, State.readV_setV, if_neg hr]

/-! ### Random -/

/-- Settles O49: the AND leaves no bit that `nn` does not have. -/
theorem rndMasksTheFreeByte : Obligations.RndMasksTheFreeByte := by
  intro x nn s
  refine ⟨⟨_, exec_rnd x nn s, fun r => ?_, rfl, rfl, exec_frame (i := .rnd x nn) rfl⟩, fun rnd => ?_⟩
  · simp
  · have hread : (rndResult rnd x nn s).readV x = rnd &&& nn := by simp [rndResult]
    rw [hread]
    refine ⟨fun b hb => ?_, ?_⟩
    · rw [BitVec.getLsbD_and, hb, Bool.and_false]
    · rw [BitVec.toNat_and]
      exact Nat.and_le_right

/-! ### Timers -/

/-- Settles O46: one register or timer is written. -/
theorem timerMoves : Obligations.TimerMoves := by
  intro x s
  refine ⟨⟨_, rfl, fun r => ?_, rfl, exec_frame (i := .ldVxDt x) rfl⟩,
    ⟨_, exec_ldDt x s, rfl, rfl, exec_frame (exec_ldDt x s)⟩,
    ⟨_, exec_ldSt x s, rfl, ?_, rfl, exec_frame (exec_ldSt x s)⟩⟩
  · rw [State.readV_advance, State.readV_setV]
  · simp [State.soundActive]

theorem tick_of_running (h : s.fault = .none) : s.tick = { s with dt := timerTick s.dt, st := timerTick s.st } :=
  if_pos h

theorem toNat_timerTick (b : Byte) : (timerTick b).toNat = b.toNat - 1 := by
  unfold timerTick
  split
  next h => simp [h]
  next h =>
    have : b.toNat ≠ 0 := fun h0 => h (BitVec.eq_of_toNat_eq h0)
    bv_omega

/-- Settles O50: running, each timer takes one tick; halted, nothing changes. -/
theorem tickDecrementsBothTimers : Obligations.TickDecrementsBothTimers := by
  intro s
  refine ⟨fun h => ?_, tick_of_halted⟩
  rw [tick_of_running h]
  exact ⟨toNat_timerTick s.dt, toNat_timerTick s.st, .of_fields⟩

/-- Settles O51: by induction on the number of TICKs; none of them writes the latch. -/
theorem ticksCountDownToZero : Obligations.TicksCountDownToZero := by
  intro k
  induction k with
  | zero => exact fun s _ => ⟨s, rfl, rfl, rfl, Frame.refl _ s⟩
  | succ k ih =>
    intro s h
    obtain ⟨hdt, hst, hframe⟩ := (tickDecrementsBothTimers s).1 h
    obtain ⟨t, ht, htdt, htst, htframe⟩ := ih s.tick ((hframe .latch (by decide)).1.trans h)
    rw [List.replicate_succ, runOps_cons (o := .tick) _ rfl]
    exact ⟨t, ht, by omega, by omega, hframe.trans htframe⟩

theorem setKeys_of_running (mask : Word) (h : s.fault = .none) : s.setKeys mask = { s with keys := mask } := if_pos h

/-- Settles O52: running, the whole register is written; halted, nothing changes. -/
theorem setKeysWritesAllSixteenBits : Obligations.SetKeysWritesAllSixteenBits := by
  intro mask s
  refine ⟨fun h => ?running, setKeys_of_halted mask, fun earlier => ?twice⟩
  case running =>
    rw [setKeys_of_running mask h]
    exact ⟨rfl, .of_fields⟩
  case twice =>
    by_cases h : s.fault = .none
    · rw [setKeys_of_running earlier h, setKeys_of_running mask h,
        setKeys_of_running mask (s := { s with keys := earlier }) h]
    · rw [setKeys_of_halted earlier h]

end Sys2Proof.Machine
end

section
/-! SUPPORT. The proofs about the register loads and the ALU (spec/41_register_alu.md). -/

namespace Sys2Proof.Machine

variable {s : State}

/-! ### Instructions that write one register -/

/-- Settles O30: the destination holds the operand, every other register what it held. -/
theorem loadsWriteTheirRegister : Obligations.LoadsWriteTheirRegister := by
  intro s x
  refine ⟨fun nn => ⟨_, rfl, fun r => ?_, rfl, exec_frame (i := .ldImm x nn) rfl⟩,
    fun y => ⟨_, rfl, fun r => ?_, rfl, exec_frame (i := .ldReg x y) rfl⟩⟩
  all_goals rw [State.readV_advance, State.readV_setV]

theorem State.readV_advance_setV_same (s : State) (x : Reg) (b : Byte) : (s.setV x b).advance.readV x = b := by simp

theorem State.readV_advance_setV_other (s : State) {x r : Reg} (b : Byte) (h : r ≠ x) :
    (s.setV x b).advance.readV r = s.readV r := by simp [h]

/-- Settles O31: each result goes to `V[x]` alone. -/
theorem unflaggedAluWritesOneRegister : Obligations.UnflaggedAluWritesOneRegister := by
  intro s x
  refine ⟨fun nn => ⟨_, rfl, ?add, fun r => s.readV_advance_setV_other _, rfl, exec_frame (i := .addImm x nn) rfl⟩,
    fun y => ⟨_, rfl, fun b _ => ?or, fun r => s.readV_advance_setV_other _, rfl, exec_frame (i := .orReg x y) rfl⟩,
    fun y => ⟨_, rfl, fun b _ => ?and, fun r => s.readV_advance_setV_other _, rfl, exec_frame (i := .andReg x y) rfl⟩,
    fun y => ⟨_, rfl, fun b _ => ?xor, fun r => s.readV_advance_setV_other _, rfl, exec_frame (i := .xorReg x y) rfl⟩⟩
  case add => rw [State.readV_advance_setV_same, BitVec.toNat_add]
  case or => rw [State.readV_advance_setV_same, BitVec.getLsbD_or]
  case and => rw [State.readV_advance_setV_same, BitVec.getLsbD_and]
  case xor => rw [State.readV_advance_setV_same, BitVec.getLsbD_xor]

/-! ### Instructions that write a result and the flag (R112) -/

theorem State.readV_flag (s : State) (x : Reg) (b : Byte) (f : Bool) :
    (s.setResultAndFlag x b f).advance.readV 15 = flagByte f := by simp

theorem State.readV_result (s : State) {x : Reg} (b : Byte) (f : Bool) (h : x ≠ 15) :
    (s.setResultAndFlag x b f).advance.readV x = b := by simp [h]

theorem State.readV_unwritten (s : State) {x r : Reg} (b : Byte) (f : Bool) (hx : r ≠ x) (hf : r ≠ 15) :
    (s.setResultAndFlag x b f).advance.readV r = s.readV r := by simp [hx, hf]

theorem flagByte_decide (p : Prop) [Decidable p] : flagByte (decide p) = if p then 1 else 0 := by
  unfold flagByte; simp

theorem toNat_flagByte (f : Bool) : (flagByte f).toNat = f.toNat := by
  cases f <;> rfl

/-- Subtraction of bytes is the remainder of the difference (R108). -/
theorem toNat_sub_eq_emod (a b : Byte) : ((a - b).toNat : Int) = ((a.toNat : Int) - b.toNat) % 256 := by
  have := a.isLt
  have := b.isLt
  rw [BitVec.toNat_sub]
  omega

/-- Settles O32: the carry is the ninth bit of the sum. -/
theorem addSetsSumAndCarry : Obligations.AddSetsSumAndCarry := by
  intro x y s
  refine ⟨_, rfl, ?_, fun hx => ?_, fun r => s.readV_unwritten _ _, rfl, exec_frame (i := .addReg x y) rfl⟩
  · rw [State.readV_flag, carryOut, flagByte_decide]
  · rw [State.readV_result _ _ _ hx, BitVec.toNat_add]

/-- Settles O33: the difference modulo 256, with no borrow when `a ≥ b`. -/
theorem subSetsDifferenceAndNoBorrow : Obligations.SubSetsDifferenceAndNoBorrow := by
  intro x y s
  refine ⟨_, rfl, ?_, fun hx => ?_, fun r => s.readV_unwritten _ _, rfl, exec_frame (i := .subReg x y) rfl⟩
  · rw [State.readV_flag, noBorrow, flagByte_decide]
  · rw [State.readV_result _ _ _ hx, toNat_sub_eq_emod]

/-- Settles O34: SUB with its operands exchanged. -/
theorem subnSetsReverseDifference : Obligations.SubnSetsReverseDifference := by
  intro x y s
  refine ⟨_, rfl, ?_, fun hx => ?_, fun r => s.readV_unwritten _ _, rfl, exec_frame (i := .subn x y) rfl⟩
  · rw [State.readV_flag, noBorrow, flagByte_decide]
  · rw [State.readV_result _ _ _ hx, toNat_sub_eq_emod]

/-! ### Shifts, for both values of SHIFT_SRC_VY -/

theorem toNat_shiftedOutRight (b : Byte) : (flagByte (shiftedOutRight b)).toNat = b.toNat % 2 := by
  rw [toNat_flagByte, shiftedOutRight, BitVec.getLsbD, Nat.toNat_testBit, pow_zero, Nat.div_one]

theorem toNat_shiftedOutLeft (b : Byte) : (flagByte (shiftedOutLeft b)).toNat = b.toNat / 128 := by
  have := b.isLt
  rw [toNat_flagByte, shiftedOutLeft, BitVec.getLsbD, Nat.toNat_testBit]
  omega

/-- SHR shifts the source the parameter names and keeps the bit shifted out (R109). -/
theorem execShrWith_eq (c : Config) (x y : Reg) (s : State) : ∃ t, execShrWith c x y s = .next t ∧
    (t.readV 15).toNat = (shiftSource c s x y).toNat % 2 ∧
    (x ≠ 15 → (t.readV x).toNat = (shiftSource c s x y).toNat / 2) ∧
    (∀ r, r ≠ x → r ≠ 15 → t.readV r = s.readV r) ∧ t.pc = s.pc + 2 ∧ Frame [.regs, .pc] s t := by
  refine ⟨_, rfl, ?_, fun hx => ?_, fun r => s.readV_unwritten _ _, rfl, .of_fields⟩
  · rw [State.readV_flag, toNat_shiftedOutRight]
  · rw [State.readV_result _ _ _ hx, BitVec.toNat_ushiftRight, Nat.shiftRight_one]

/-- SHL likewise (R111). -/
theorem execShlWith_eq (c : Config) (x y : Reg) (s : State) : ∃ t, execShlWith c x y s = .next t ∧
    (t.readV 15).toNat = (shiftSource c s x y).toNat / 128 ∧
    (x ≠ 15 → (t.readV x).toNat = (shiftSource c s x y).toNat * 2 % 256) ∧
    (∀ r, r ≠ x → r ≠ 15 → t.readV r = s.readV r) ∧ t.pc = s.pc + 2 ∧ Frame [.regs, .pc] s t := by
  refine ⟨_, rfl, ?_, fun hx => ?_, fun r => s.readV_unwritten _ _, rfl, .of_fields⟩
  · rw [State.readV_flag, toNat_shiftedOutLeft]
  · rw [State.readV_result _ _ _ hx, BitVec.toNat_shiftLeft, Nat.shiftLeft_eq, pow_one]

/-- Settles O35: on this hardware the source is `V[y]`. -/
theorem shiftsMoveVyAndSetTheBitOut : Obligations.ShiftsMoveVyAndSetTheBitOut :=
  fun x y s => ⟨execShrWith_eq build x y s, execShlWith_eq build x y s⟩

/-- Settles O36: with the other value of the parameter the source is `V[x]`. -/
theorem shiftsInPlaceWithTheOtherParameter : Obligations.ShiftsInPlaceWithTheOtherParameter := by
  intro c x y s hc
  have hsource : shiftSource c s x y = s.readV x := by simp [shiftSource, hc]
  have hshr := execShrWith_eq c x y s
  have hshl := execShlWith_eq c x y s
  rw [hsource] at hshr hshl
  exact ⟨hshr, hshl⟩

end Sys2Proof.Machine
end

section
/-! SUPPORT. The proofs about the index register and the memory instructions (spec/42_index_memory.md). -/

namespace Sys2Proof.Machine

variable {s : State}

/-! ### The index register -/

/-- Settles O37: `I` is the address. -/
theorem ldISetsTheIndex : Obligations.LdISetsTheIndex :=
  fun nnn _ => ⟨_, rfl, toNat_addressOperand nnn, rfl, exec_frame (i := .ldI nnn) rfl⟩

/-- Settles O38: the sum of words wraps at 16 bits. -/
theorem addIWrapsAtSixteenBits : Obligations.AddIWrapsAtSixteenBits := by
  intro x s
  refine ⟨_, rfl, ?_, rfl, exec_frame (i := .addI x) rfl⟩
  have := (s.readV x).isLt
  rw [State.advance_i, State.setI_i, BitVec.toNat_add, BitVec.toNat_setWidth]
  omega

/-- The glyph address fits in `I` for every legal FONT_BASE (R5). -/
theorem execLdFWith_eq (c : Config) (hc : c.wf = true) (x : Reg) (s : State) : ∃ t, execLdFWith c x s = .next t ∧
    t.i.toNat = c.fontBase + 5 * ((s.readV x).toNat % 16) ∧ t.pc = s.pc + 2 ∧ Frame [.index, .pc] s t := by
  refine ⟨_, rfl, ?_, rfl, .of_fields⟩
  have hbase : c.fontBase ≤ 0x1B0 := of_decide_eq_true hc
  rw [State.advance_i, State.setI_i, BitVec.toNat_ofNat, glyphAddress, lowNibble, Nat.mod_eq_of_lt (by omega)]

/-- The background of memory is the font from FONT_BASE 0 on (R212). -/
theorem Memory.background_eq (a : Nat) : Memory.background a = fontBytes.getD a 0 := by
  simp [Memory.background, resetByte, build]

/-- Settles O39: FONT_BASE is 0 on this hardware, and the bytes at the glyph's address are the font's. -/
theorem ldFPointsAtTheGlyph : Obligations.LdFPointsAtTheGlyph := by
  intro x s
  refine ⟨?_, fun c hc => execLdFWith_eq c hc x s⟩
  obtain ⟨t, ht, hi, hpc, hframe⟩ := execLdFWith_eq build (by decide) x s
  have hi0 : t.i.toNat = 5 * ((s.readV x).toNat % 16) := hi.trans (Nat.zero_add _)
  refine ⟨t, ht, hi0, hpc, hframe, fun k _ => ?_⟩
  rw [hi0]
  exact Memory.background_eq _

/-! ### Stores -/

/-- A byte of the stored list. -/
theorem Memory.read_writeBytes_at (m : Memory) (a : Nat) {bs : List Byte} {k : Nat} (hk : k < bs.length) :
    (m.writeBytes a bs).read (a + k) = bs.getD k 0 := by
  rw [Memory.read_writeBytes, if_pos (by omega), Nat.add_sub_cancel_left]

theorem State.guardRange_of_room {len : Nat} {done : State} (h : s.i.toNat + len ≤ 4096) :
    s.guardRange len done = done :=
  State.guardRange_of_fits (.inr h)

theorem toNat_digits (b : Byte) :
    ((decimalDigits b).getD 0 0).toNat = b.toNat / 100 ∧ ((decimalDigits b).getD 1 0).toNat = b.toNat / 10 % 10 ∧
      ((decimalDigits b).getD 2 0).toNat = b.toNat % 10 := by
  have := b.isLt
  refine ⟨?_, ?_, ?_⟩
  · show (BitVec.ofNat 8 (b.toNat / 100)).toNat = _
    rw [BitVec.toNat_ofNat]
    omega
  · show (BitVec.ofNat 8 (b.toNat / 10 % 10)).toNat = _
    rw [BitVec.toNat_ofNat]
    omega
  · show (BitVec.ofNat 8 (b.toNat % 10)).toNat = _
    rw [BitVec.toNat_ofNat]
    omega

/-- Settles O40: the three digits are stored in order. -/
theorem ldBStoresTheDecimalDigits : Obligations.LdBStoresTheDecimalDigits := by
  intro x s hroom
  have hexec := exec_ldB x s
  rw [State.guardRange_of_room (by omega)] at hexec
  obtain ⟨hhundreds, htens, hones⟩ := toNat_digits (s.readV x)
  have hread : ∀ k < 3, (s.mem.writeBytes s.i.toNat (decimalDigits (s.readV x))).read (s.i.toNat + k) =
      (decimalDigits (s.readV x)).getD k 0 := fun k hk => Memory.read_writeBytes_at _ _ hk
  refine ⟨_, hexec, ?_, ?_, ?_, fun a ha => ?_, rfl, .of_fields⟩
  all_goals rw [State.advance_mem, State.store_mem]
  · exact (congrArg BitVec.toNat (hread 0 (by decide))).trans hhundreds
  · exact (congrArg BitVec.toNat (hread 1 (by decide))).trans htens
  · exact (congrArg BitVec.toNat (hread 2 (by decide))).trans hones
  · exact Memory.read_writeBytes_outside _ _ _ _ (by rw [length_decimalDigits]; omega)

theorem execLdMemVxWith_eq (c : Config) (x : Reg) (s : State) (hroom : s.i.toNat + x.val < 4096) :
    execLdMemVxWith c x s = .next ((s.store s.i.toNat (s.regsUpTo x)).setI (indexAfter c s x)).advance :=
  congrArg Host.Outcome.next (State.guardRange_of_room (by omega))

theorem execLdVxMemWith_eq (c : Config) (x : Reg) (s : State) (hroom : s.i.toNat + x.val < 4096) :
    execLdVxMemWith c x s = .next ((s.loadRegs s.i.toNat x).setI (indexAfter c s x)).advance :=
  congrArg Host.Outcome.next (State.guardRange_of_room (by omega))

/-- The memory a dump leaves holds `V[k]` at the `k`-th address. -/
theorem read_dump (s : State) {x k : Reg} (h : k ≤ x) :
    (s.mem.writeBytes s.i.toNat (s.regsUpTo x)).read (s.i.toNat + k.val) = s.readV k := by
  have hk : k.val ≤ x.val := h
  rw [Memory.read_writeBytes_at _ _ (by rw [State.length_regsUpTo]; omega), State.getD_regsUpTo s x k h]

theorem read_dump_outside (s : State) (x : Reg) {a : Nat} (h : a < s.i.toNat ∨ s.i.toNat + x.val < a) :
    (s.mem.writeBytes s.i.toNat (s.regsUpTo x)).read a = s.mem.read a :=
  Memory.read_writeBytes_outside _ _ _ _ (by rw [State.length_regsUpTo]; omega)

theorem readV_load (c : Config) (s : State) (x r : Reg) :
    ((s.loadRegs s.i.toNat x).setI (indexAfter c s x)).advance.readV r =
      if r ≤ x then s.mem.read (s.i.toNat + r.val) else s.readV r := by
  rw [State.readV_advance, State.readV_setI, State.readV_loadRegs]

/-- With MEM_INC_I `I` ends behind the last byte: at most 4096, so without a wrap. -/
theorem toNat_indexAfter_build (x : Reg) (hroom : s.i.toNat + x.val < 4096) :
    (indexAfter build s x).toNat = s.i.toNat + x.val + 1 := by
  show (s.i + BitVec.ofNat 16 (x.val + 1)).toNat = _
  rw [BitVec.toNat_add, BitVec.toNat_ofNat]
  omega

theorem indexAfter_of_not_memIncI {c : Config} (hc : c.memIncI = false) (s : State) (x : Reg) :
    indexAfter c s x = s.i := by
  simp [indexAfter, hc]

/-- Settles O41: the stores of the dump, then the move of `I` that the parameter names. -/
theorem ldMemVxStoresTheRegisters : Obligations.LdMemVxStoresTheRegisters := by
  intro x s hroom
  refine ⟨⟨_, execLdMemVxWith_eq build x s hroom, fun k => read_dump s, fun a => read_dump_outside s x,
    toNat_indexAfter_build x hroom, rfl, .of_fields⟩,
    fun c hc => ⟨_, execLdMemVxWith_eq c x s hroom, fun k => read_dump s, fun a => read_dump_outside s x, rfl, ?_⟩⟩
  rw [indexAfter_of_not_memIncI hc]
  exact .of_fields

/-- Settles O42: the loads, then the move of `I` that the parameter names. -/
theorem ldVxMemLoadsTheRegisters : Obligations.LdVxMemLoadsTheRegisters := by
  intro x s hroom
  refine ⟨⟨_, execLdVxMemWith_eq build x s hroom, readV_load build s x, ?index, by simp, .of_fields⟩,
    fun c hc => ⟨_, execLdVxMemWith_eq c x s hroom, readV_load c s x, by simp, ?_⟩⟩
  case index =>
    rw [State.advance_i, State.setI_i]
    exact toNat_indexAfter_build x hroom
  rw [indexAfter_of_not_memIncI hc]
  exact .of_fields

/-- Settles O44: the load reads what the dump stored, since both begin at the same `I`. -/
theorem dumpThenLoadRestoresTheRegisters : Obligations.DumpThenLoadRestoresTheRegisters := by
  intro x s between hroom
  refine ⟨_, _, execLdMemVxWith_eq build x s hroom, execLdVxMemWith_eq build x _ hroom, fun k hk => ?_, fun k hk => ?_⟩
  · rw [readV_load, if_pos hk]
    exact read_dump s hk
  · rw [readV_load, if_neg (not_le.mpr hk)]
    rfl

/-- Settles O45: the fetch at the old `I` joins the first two bytes of the dump. -/
theorem storedBytesAreFetched : Obligations.StoredBytesAreFetched := by
  intro x s hx hroom
  refine ⟨_, execLdMemVxWith_eq build x s hroom, ?_⟩
  have hfirst := read_dump s (x := x) (k := 0) (Fin.zero_le x)
  have hsecond := read_dump s (x := x) (k := 1) hx
  rw [State.fetch_of_inside (by unfold memSize; exact (by omega : s.i.toNat + 1 < 4096))]
  exact congrArg Except.ok (congrArg₂ joinBytes hfirst hsecond)

end Sys2Proof.Machine
end

section
/-! SUPPORT. The proofs about DRW (spec/43_display.md R142 to R151). -/

namespace Sys2Proof.Machine

/-! ### What a blit does to the pixels and the collision -/

/-- From `a` to `b` the pixels of `T` and no others are toggled; a collision is added iff one was set (R142, R146). -/
structure Toggles (T : Fin 64 → Fin 32 → Prop) (a b : Framebuffer × Bool) : Prop where
  under : ∀ px py, T px py → b.1.get px py = !a.1.get px py
  outside : ∀ px py, ¬ T px py → b.1.get px py = a.1.get px py
  collides : b.2 = true ↔ a.2 = true ∨ ∃ px py, T px py ∧ a.1.get px py = true

variable {T U : Fin 64 → Fin 32 → Prop} {a b c : Framebuffer × Bool}

theorem Toggles.congr (h : Toggles T a b) (hTU : ∀ px py, U px py ↔ T px py) : Toggles U a b := by
  obtain rfl : U = T := funext fun px => funext fun py => propext (hTU px py)
  exact h

theorem Toggles.none (a : Framebuffer × Bool) : Toggles (fun _ _ => False) a a :=
  ⟨fun _ _ h => h.elim, fun _ _ _ => rfl, by simp⟩

/-- Blits that share no pixel add up: the second finds its pixels as the first found them. -/
theorem Toggles.comp (h : Toggles T a b) (h' : Toggles U b c) (hdisj : ∀ px py, T px py → ¬ U px py) :
    Toggles (fun px py => T px py ∨ U px py) a c where
  under px py hTU := by
    rcases hTU with hT | hU
    · rw [h'.outside px py (hdisj px py hT), h.under px py hT]
    · rw [h'.under px py hU, h.outside px py fun hT => hdisj px py hT hU]
  outside px py hTU := by
    rw [not_or] at hTU
    rw [h'.outside px py hTU.2, h.outside px py hTU.1]
  collides := by
    have hU : ∀ px py, U px py → b.1.get px py = a.1.get px py := fun px py hU =>
      h.outside px py fun hT => hdisj px py hT hU
    rw [h'.collides, h.collides, or_assoc]
    refine or_congr_right ⟨?_, ?_⟩
    · rintro (⟨px, py, hT, hset⟩ | ⟨px, py, hU', hset⟩)
      · exact ⟨px, py, .inl hT, hset⟩
      · exact ⟨px, py, .inr hU', hU px py hU' ▸ hset⟩
    · rintro ⟨px, py, hT | hU', hset⟩
      · exact .inl ⟨px, py, hT, hset⟩
      · exact .inr ⟨px, py, hU', (hU px py hU').trans hset⟩

/-! ### One bit, one row, a sprite -/

/-- The pixel of column `c` of a sprite byte on row `y`, if its bit is 1 (R142, R147). -/
def UnderBit (x0 y : Nat) (b : Byte) (c : Nat) (px : Fin 64) (py : Fin 32) : Prop :=
  py.val = y % 32 ∧ b.getLsbD (7 - c) = true ∧ px.val = (x0 + c) % 64

theorem snd_blitPixel_iff (x0 y : Nat) (b : Byte) (acc : Framebuffer × Bool) (c : Nat) :
    (blitPixel x0 y b acc c).2 = true ↔
      acc.2 = true ∨ ∃ px py, UnderBit x0 y b c px py ∧ acc.1.get px py = true := by
  unfold blitPixel UnderBit
  by_cases hbit : b.getLsbD (7 - c) = true
  · rw [if_pos hbit, Bool.or_eq_true]
    refine or_congr_right ⟨fun hset => ⟨_, _, ⟨rfl, hbit, rfl⟩, hset⟩, ?_⟩
    rintro ⟨px, py, ⟨hy, -, hx⟩, hset⟩
    obtain rfl : px = Fin.ofNat 64 (x0 + c) := Fin.ext hx
    obtain rfl : py = Fin.ofNat 32 y := Fin.ext hy
    exact hset
  · simp [hbit]

theorem toggles_blitPixel (x0 y : Nat) (b : Byte) (acc : Framebuffer × Bool) (c : Nat) :
    Toggles (UnderBit x0 y b c) acc (blitPixel x0 y b acc c) where
  under px py h := by
    unfold UnderBit at h
    rw [get_blitPixel, decide_eq_true h, Bool.xor_true]
  outside px py h := by
    unfold UnderBit at h
    rw [get_blitPixel, decide_eq_false h, Bool.xor_false]
  collides := snd_blitPixel_iff x0 y b acc c

theorem toggles_foldl_blitPixel (x0 y : Nat) (b : Byte) (acc : Framebuffer × Bool) (n : Nat) (hn : n ≤ 64) :
    Toggles (fun px py => ∃ c < n, UnderBit x0 y b c px py) acc ((List.range n).foldl (blitPixel x0 y b) acc) := by
  induction n with
  | zero => exact (Toggles.none acc).congr (by simp)
  | succ n ih =>
    rw [List.range_succ, List.foldl_append, List.foldl_cons, List.foldl_nil]
    refine ((ih (by omega)).comp (toggles_blitPixel x0 y b _ n) ?_).congr fun px py => Nat.exists_lt_succ_right
    rintro px py ⟨c, hc, -, -, hcol⟩ ⟨-, -, hlast⟩
    omega

theorem toggles_blitRow (x0 y : Nat) (b : Byte) (acc : Framebuffer × Bool) :
    Toggles (fun px py => ∃ c < 8, UnderBit x0 y b c px py) acc (blitRow x0 y b acc) :=
  toggles_foldl_blitPixel x0 y b acc 8 (by decide)

/-- The pixels under a sprite are those under its first row and those under the rows below. -/
theorem underSpriteBit_cons_iff (b : Byte) (bs : List Byte) (x0 y : Nat) (px : Fin 64) (py : Fin 32) :
    UnderSpriteBit (fun r => (b :: bs).getD r 0) (b :: bs).length x0 y px py ↔
      (∃ c < 8, UnderBit x0 y b c px py) ∨ UnderSpriteBit (fun r => bs.getD r 0) bs.length x0 (y + 1) px py := by
  constructor
  · rintro ⟨r, c, hr, hc, hbit, hx, hy⟩
    cases r with
    | zero => exact .inl ⟨c, hc, hy, hbit, hx⟩
    | succ r => exact .inr ⟨r, c, Nat.lt_of_succ_lt_succ hr, hc, hbit, hx, by omega⟩
  · rintro (⟨c, hc, hy, hbit, hx⟩ | ⟨r, c, hr, hc, hbit, hx, hy⟩)
    · exact ⟨0, c, Nat.succ_pos _, hc, hbit, hx, hy⟩
    · exact ⟨r + 1, c, Nat.succ_lt_succ hr, hc, hbit, hx, by omega⟩

/-- A sprite of at most 32 rows has no two rows on one row of the framebuffer. -/
theorem toggles_blitRows (x0 y : Nat) (bs : List Byte) (acc : Framebuffer × Bool) (hlen : bs.length ≤ 32) :
    Toggles (UnderSpriteBit (fun r => bs.getD r 0) bs.length x0 y) acc (blitRows x0 y bs acc) := by
  induction bs generalizing y acc with
  | nil => exact (Toggles.none acc).congr (by simp [UnderSpriteBit])
  | cons b bs ih =>
    rw [List.length_cons] at hlen
    refine ((toggles_blitRow x0 y b acc).comp (ih (y + 1) _ (by omega)) ?_).congr (underSpriteBit_cons_iff b bs x0 y)
    rintro px py ⟨c, -, hy, -, -⟩ ⟨r, c', hr, -, -, -, hy'⟩
    omega

theorem toggles_blit (fb : Framebuffer) (x0 y0 : Nat) (sprite : List Byte) (hlen : sprite.length ≤ 32) :
    Toggles (UnderSpriteBit (fun r => sprite.getD r 0) sprite.length x0 y0) (fb, false) (fb.blit x0 y0 sprite) :=
  toggles_blitRows x0 y0 sprite (fb, false) hlen

/-- Settles O56: toggled twice a pixel is as before, and the second draw meets the pixels the first set. -/
theorem drawingTwiceRestoresTheDisplay : Obligations.DrawingTwiceRestoresTheDisplay := by
  intro fb x0 y0 sprite hlen
  have hfirst := toggles_blit fb x0 y0 sprite (by omega)
  have hsecond := toggles_blit (fb.blit x0 y0 sprite).1 x0 y0 sprite (by omega)
  refine ⟨Framebuffer.ext_get fun px py => ?_, ?_⟩
  · by_cases h : UnderSpriteBit (fun r => sprite.getD r 0) sprite.length x0 y0 px py
    · rw [hsecond.under px py h, hfirst.under px py h, Bool.not_not]
    · rw [hsecond.outside px py h, hfirst.outside px py h]
  · rw [hsecond.collides]
    simp only [Bool.false_eq_true, false_or]
    refine exists₂_congr fun px py => and_congr_right fun h => ?_
    rw [hfirst.under px py h, Bool.not_eq_true']

/-! ### DRW -/

theorem underSpriteBit_readBytes_iff (m : Memory) (base n x0 y0 : Nat) (px : Fin 64) (py : Fin 32) :
    UnderSpriteBit (fun r => m.read (base + r)) n x0 y0 px py ↔
      UnderSpriteBit (fun r => (m.readBytes base n).getD r 0) (m.readBytes base n).length x0 y0 px py := by
  unfold UnderSpriteBit
  rw [Memory.length_readBytes]
  refine exists₂_congr fun r c => and_congr_right fun hr => ?_
  dsimp only
  rw [List.getD_eq_getElem?_getD, Memory.getElem?_readBytes, if_pos hr, Option.getD_some]

theorem toggles_drwBlit (x y : Reg) (n : Fin 16) (s : State) :
    Toggles (UnderSpriteBit (fun r => s.mem.read (s.i.toNat + r)) n.val ((s.readV x).toNat % 64)
      ((s.readV y).toNat % 32)) (s.fb, false) (drwBlit x y n s) :=
  (toggles_blit s.fb _ _ _ (by rw [Memory.length_readBytes]; omega)).congr
    (underSpriteBit_readBytes_iff s.mem s.i.toNat n.val _ _)

/-- Settles O54: DRW in range shows the blit, and its flag is the collision. -/
theorem drwXorsTheSpriteAndReportsCollision : Obligations.DrwXorsTheSpriteAndReportsCollision := by
  intro x y n s hrange
  have hexec := exec_drw x y n s
  have hfits : n.val = 0 ∨ s.i.toNat + n.val ≤ memSize := hrange.imp_left (congrArg Fin.val)
  rw [State.guardRange_of_fits hfits] at hexec
  have hblit := toggles_drwBlit x y n s
  have hcollides := hblit.collides
  simp only [Bool.false_eq_true, false_or] at hcollides
  refine ⟨_, hexec, fun px py => ⟨hblit.under px py, hblit.outside px py⟩, fun hset => ?set, fun hclear => ?clear,
    fun r hr => ?others, rfl, rfl, .of_fields⟩
  case set => rw [State.readV_advance, State.readV_setFlag, if_pos rfl, hcollides.mpr hset, flagByte, if_pos rfl]
  case clear =>
    rw [State.readV_advance, State.readV_setFlag, if_pos rfl, Bool.eq_false_iff.mpr fun h => hclear (hcollides.mp h)]
    rfl
  case others => rw [State.readV_advance, State.readV_setFlag, if_neg hr, State.readV_show]

end Sys2Proof.Machine
end

section
/-! SUPPORT. The proofs about RESET and the outputs (spec/70_reset_and_hazards.md R210 to R216; spec/10_state.md R36). -/

namespace Sys2Proof.Machine

variable {s : State} {image : List Byte}

/-! ### The state after RESET -/

theorem resetWith_of_fits (s : State) (h : image.length ≤ 3584) : s.resetWith image =
    { State.reset with mem := Memory.writeBytes [] progBase image, draws := s.draws } :=
  if_pos h

theorem resetWith_of_oversized (s : State) (h : 3584 < image.length) : s.resetWith image =
    { State.reset with
      fault := .imageTooLarge
      finfo := BitVec.ofNat 16 (min image.length 65535)
      draws := s.draws } :=
  if_neg (Nat.not_le.mpr h)

theorem readV_of_v_eq_reset {t : State} (h : t.v = State.reset.v) (r : Reg) : t.readV r = 0 := by
  rw [State.readV_of_v_eq h]
  simp [State.readV, State.reset]

theorem pixel_of_fb_eq_reset {t : State} (h : t.fb = State.reset.fb) (px : Fin 64) (py : Fin 32) :
    t.pixel px py = false := by
  rw [State.pixel, h]
  exact Framebuffer.get_clear px py

/-- Settles O57: RESET builds the state from nothing but the image and the count of free values. -/
theorem resetSetsEveryRegister : Obligations.ResetSetsEveryRegister := by
  intro image s s' h
  rw [resetWith_of_fits s h, resetWith_of_fits s' h]
  exact ⟨rfl, readV_of_v_eq_reset rfl, rfl, rfl, rfl, rfl, rfl, rfl, rfl, pixel_of_fb_eq_reset rfl, rfl, rfl⟩

/-! ### Memory after RESET -/

theorem Memory.background_of_font_end {a : Nat} (h : 80 ≤ a) : Memory.background a = 0 := by
  rw [Memory.background_eq, List.getD_eq_default _ _ h]

/-- Outside the image RESET leaves the background. -/
theorem read_image_outside {a : Nat} (h : a < 0x200 ∨ 0x200 + image.length ≤ a) :
    (Memory.writeBytes [] progBase image).read a = Memory.background a :=
  Memory.read_writeBytes_outside [] progBase a image h

/-- Settles O58: the image is stored over the background, which is the font below 80 and 0 above. -/
theorem resetLoadsFontAndImage : Obligations.ResetLoadsFontAndImage := by
  intro image s h
  have hwf := (resetWith_inv image s).memory
  rw [resetWith_of_fits s h] at hwf ⊢
  refine ⟨fun k hk => Memory.read_writeBytes_at [] progBase hk, fun a ha => ?font, fun a hfont ha => ?below,
    fun a hend _ => ?above, hwf⟩
  case font => exact (read_image_outside (.inl (by omega))).trans (Memory.background_eq a)
  case below => exact (read_image_outside (.inl ha)).trans (Memory.background_of_font_end hfont)
  case above => exact (read_image_outside (.inr hend)).trans (Memory.background_of_font_end (by omega))

/-- Settles O59: nothing but the latch differs from the reset state. -/
theorem oversizedImageHaltsAtReset : Obligations.OversizedImageHaltsAtReset := by
  intro image s h
  rw [resetWith_of_oversized s h]
  refine ⟨rfl, ?finfo, rfl, fun _ => rfl, Memory.wf_reset, rfl, readV_of_v_eq_reset rfl, rfl, rfl, rfl, rfl, rfl, rfl,
    pixel_of_fb_eq_reset rfl⟩
  case finfo =>
    show (BitVec.ofNat 16 (min image.length 65535)).toNat = min image.length 65535
    rw [BitVec.toNat_ofNat, Nat.mod_eq_of_lt (by omega)]

/-! ### The outputs -/

/-- Settles O60: each of the six codes has its own number. -/
theorem outputsReportSoundAndFault : Obligations.OutputsReportSoundAndFault := by
  intro s
  refine ⟨?_, rfl, ?_⟩
  · simp [State.outcome, State.soundActive]
  · show (s.fault = _ ↔ s.fault.code = 0) ∧ (s.fault = _ ↔ s.fault.code = 1) ∧ (s.fault = _ ↔ s.fault.code = 2) ∧
      (s.fault = _ ↔ s.fault.code = 3) ∧ (s.fault = _ ↔ s.fault.code = 4) ∧ (s.fault = _ ↔ s.fault.code = 5)
    cases s.fault <;> decide

end Sys2Proof.Machine
end
